-- ==== Sys2Proof/Word.lean ====
section
/-! DEFINITION. The value types of the block: bytes, 32-bit words and byte strings (00_scope.md rules R10 to R12). -/

namespace Sys2Proof

/-- One 8-bit value (R10). -/
abbrev Byte := BitVec 8

/-- One 32-bit control register or command word (R40, R110). -/
abbrev Word := BitVec 32

/-- A byte string; index 0 is the first byte (R10). Concatenation is `++`, `take(n, s)` is `s.take n`. -/
abbrev Bytes := List Byte

/-- The optional byte string `Opt` of R11: `none` is `absent`, `some s` is `present(s)`, and `some []` is not `none`. -/
abbrev Opt := Option Bytes

/-- `fill(n, x)` (R10). -/
def fill (n : Nat) (x : Byte) : Bytes := List.replicate n x

/-- `zeros(n) = fill(n, 0x00)` (R10). -/
def zeros (n : Nat) : Bytes := fill n 0x00

/-- `orEmpty` (R11): absent reads as the empty string. -/
def orEmpty : Opt → Bytes
  | none => []
  | some s => s

end Sys2Proof
end

