-- ==== Sys2Proof/Config.lean ====
section
/-! DEFINITION. What a build of the block fixes (00_scope.md rules R5 to R7) and the values the spec leaves free. -/

namespace Sys2Proof.Config

/-- `DL_MAX` (R5, D17): the largest digest length a variant may have, and the size of DBG_K and DBG_V. -/
def dlMax : Nat := 64

/-- What `VARIANTS` attaches to a code (R5, R6): the digest length in bytes and, where the variant has one, its default
minimum entropy in bytes. -/
structure VariantInfo where
  dl     : Nat
  defMin : Option Word
  deriving DecidableEq, Repr

/-- The build-time parameters of R5. The model takes them as data that no step changes, so that a statement about every
state is a statement about every build.  CW = 64 and DL_MAX = 64 are fixed by the spec; code 0 is always attached (R6) and
so is no parameter. -/
structure Build where
  /-- `RI`, the reseed interval. -/
  ri : BitVec 64
  /-- `VARIANTS(1)`, `VARIANTS(2)`, `VARIANTS(3)`: `none` where no provider is attached. -/
  variant1 : Option VariantInfo
  variant2 : Option VariantInfo
  variant3 : Option VariantInfo
  /-- `MAX_IN_LEN`, the capacity of IN0, IN1 and IN2. -/
  maxInLen : Nat
  /-- `MAX_OUT_LEN`, the capacity of OUT and the largest request. -/
  maxOutLen : Nat
  /-- `DEBUG_ACCESS`: whether GENS and RDST are available. -/
  debugAccess : Bool
  /-- `INST_ENTROPY_CHECK`: whether INST enforces the entropy floor. -/
  instEntropyCheck : Bool
  /-- `BASE`, where the platform puts the register window. -/
  base : Nat
  deriving DecidableEq, Repr

/-- R6: an attached code has `1 <= DL <= DL_MAX`. -/
def VariantInfo.wf (i : VariantInfo) : Bool := 1 ≤ i.dl && i.dl ≤ dlMax

/-- The constraints of R5, R6, R7 and D7 (BASE is 4 KiB aligned). -/
def Build.wf (b : Build) : Bool :=
  b.ri != 0 && b.variant1.all VariantInfo.wf && b.variant2.all VariantInfo.wf && b.variant3.all VariantInfo.wf
    && b.maxInLen ≤ 256 && b.maxOutLen ≤ 65536 && b.base % 4096 == 0

/-- The default build of R5.  DEBUG_ACCESS and BASE are OPEN there.
DESIGN CHOICE (unsafe, notes/assumptions/1.md): the build of `State.reset` has DEBUG_ACCESS true and BASE 0. -/
def defaultBuild : Build where
  ri := 281474976710656
  variant1 := none
  variant2 := none
  variant3 := none
  maxInLen := 256
  maxOutLen := 65536
  debugAccess := true
  instEntropyCheck := false
  base := 0

/-- The free value a host read gives while a command runs (20_memory.md rule R89), one for each count of earlier draws.
No body on purpose: nothing can be proved of it (notes/assumptions/2.md). -/
opaque freeWord : Nat → Word

/-- Byte `i` of the digest of an attached provider other than code 0 (40_update_engine.md rule R145): `freeDigestByte var dl key
message i`, with `dl` the digest length the build gives the code.  The spec gives such a provider no function; nothing can be
proved of it (notes/assumptions/3.md).  DESIGN CHOICE (unsafe for a claim that compares builds): R5 makes the provider a build
parameter, and here all builds that give a code the same digest length share one function. -/
opaque freeDigestByte : BitVec 2 → Nat → Bytes → Bytes → Nat → Byte

end Sys2Proof.Config
end

