-- ==== Sys2Proof/Syntax.lean ====
section
/-! DEFINITION. The command set: one constructor per row of spec/opcode_table.json (30_encoding.md rule R116). -/

namespace Sys2Proof

/-- A command. `pers`/`add` is the P bit (R112), `override` the O bit (R113), `var` the VAR field (R114).
RES, and every field a row does not use, must be 0 and therefore has no place here (R115, R116). -/
inductive Instr where
  /-- 0x0, R265: issue and completion effects only. -/
  | nop
  /-- 0x1, R190: instantiate. -/
  | inst (pers override : Bool) (var : BitVec 2)
  /-- 0x2, R210: generate. -/
  | gen (add : Bool)
  /-- 0x3, R240: reseed. -/
  | rsd
  /-- 0x4, R225: generate and show the state afterwards (debug builds). -/
  | gens (add : Bool)
  /-- 0x5, R268: read the state without advancing it (debug builds). -/
  | rdst
  /-- 0x6, R272: wipe. -/
  | zero
  deriving DecidableEq, Repr

end Sys2Proof
end

