-- ==== Sys2Proof/Machine/State.lean ====
section
/-! DEFINITION. Everything the spec gives the machine: generator state, host register file, hidden sequencer state
(10_state.md), the host agent that drives the window (92_eei_decisions.md D36, 30_encoding.md rule R126), and the model's own
records. -/

namespace Sys2Proof.Machine

open Sys2Proof.Config (Build)

/-- The outcome kinds of STATUS.ERR (60_exceptions.md rule R301).  Codes 7 to 15 are never produced, so they are no value of
this type. -/
inductive ErrKind where
  | ok
  | unsupportedHashVariant
  | reseedRequired
  | insufficientEntropy
  | notInstantiated
  | invalidLength
  | illegalCommand
  deriving DecidableEq, Repr

/-- The sequencer phases (R55).  Codes 10 to 15 never occur, so they are no value of this type. -/
inductive Phase where
  | idle
  | check
  | updK0
  | updV0
  | updK1
  | updV1
  | genBlock
  | genTrunc
  | cntOp
  | complete
  deriving DecidableEq, Repr

/-- `URET` (R57): which caller the update in progress returns to. -/
inductive URet where
  | instSeed
  | genPre
  | genPost
  | rsdSeed
  deriving DecidableEq, Repr

/-- The window's bytes by offset, in canonical form (`Memory.wf`): offsets strictly rising and no byte 0x00 listed.  An
unlisted offset reads 0x00: the reset contents of every buffer (R60) and what a reserved location reads (R85). -/
abbrev Memory := List Host.Cell

/-- One call of the keyed-hash provider (40_update_engine.md rules R145, R151). -/
structure ProviderCall where
  variant : BitVec 2
  key     : Bytes
  message : Bytes
  digest  : Bytes
  deriving DecidableEq, Repr

/-- The width of a host access (R80): n is 1, 2 or 4 bytes. -/
inductive AccessSize where
  | byte
  | half
  | word
  deriving DecidableEq, Repr

/-- One primitive statement of a host program (R126).  `cmd` and `wr` are a `write` of one word, `wrb` a list of byte writes,
`rd` a `read` of one word and `rdb` a list of byte reads (Machine/HostNotation.lean expands them); a label is the index of
a statement. -/
inductive HostStmt where
  /-- `MemWrite(off, n, value)`; the low n bytes of `value` are written. -/
  | write (off : Nat) (size : AccessSize) (value : Word)
  /-- `MemRead(off, n)`; the value goes to the host's record. -/
  | read (off : Nat) (size : AccessSize)
  /-- One poll of STATUS a step, until DONE is 1. -/
  | wait
  /-- Reads the register at `off`; continues at `target` if bits hi:lo equal `value`. -/
  | jeq (off : Nat) (hi lo : Nat) (value : Nat) (target : Nat)
  | jmp (target : Nat)
  deriving DecidableEq, Repr

/-- A value the host has read. -/
structure HostRead where
  off   : Nat
  size  : AccessSize
  value : Word
  deriving DecidableEq, Repr

/-- Who moves next at a step (70_reset_and_hazards.md rule R350 for the reset input). -/
inductive Turn where
  | host
  | sequencer
  | reset
  deriving DecidableEq, Repr

/-- How a command runs: in one atomic step (92_eei_decisions.md D1, 45_control_debug.md rule R263), or one sequencer phase a
step (40_update_engine.md rules R150, R153). -/
inductive Grain where
  | command
  | micro
  deriving DecidableEq, Repr

/-- The generator state, R16 and R30.  `k` and `v` hold the DL(VARIANT) architectural bytes; the rest of the physical
DL_MAX-byte registers is 0x00 (R31, `Gen.kRegister`). -/
structure Gen where
  inst    : Bool
  variant : BitVec 2
  minEnt  : Word
  k       : Bytes
  v       : Bytes
  cnt     : BitVec 64
  deriving DecidableEq, Repr

/-- The host register file (R40) less what mirrors the generator state or the phase: STATUS and MINENT are computed
(Machine/Flags.lean), CMD reads 0 and holds nothing (R41). -/
structure Window where
  arg      : Word
  len0     : Word
  len1     : Word
  len2     : Word
  outLen   : Word
  dbgCntLo : Word
  dbgCntHi : Word
  /-- STATUS.DONE (R43). -/
  done     : Bool
  /-- STATUS.ERR (R43, R301). -/
  err      : ErrKind
  /-- IN0, IN1, IN2, DBG_K, DBG_V and OUT, by window offset. -/
  mem      : Memory
  deriving DecidableEq, Repr

/-- The hidden sequencer state (R55 to R58).  STATUS.BUSY is 1 exactly when `phase` is not idle, and is stored nowhere else. -/
structure Sequencer where
  phase : Phase
  lcmd  : Word
  udata : Opt
  uret  : URet
  tbuf  : Bytes
  nreq  : Word
  adata : Opt
  /-- The model's own: the outcome CHECK found, kept for COMPLETE (notes/assumptions/6.md). -/
  outcome : ErrKind
  deriving DecidableEq, Repr

/-- The host (D36, R126) and the order of moves; the model's own fields (notes/assumptions/4.md and 5.md). -/
structure HostAgent where
  prog  : List HostStmt
  pc    : Nat
  /-- What the host has read, oldest first. -/
  reads : List HostRead
  /-- Who moves at the next steps; when none is listed the sequencer moves while a command runs, else the host. -/
  turns : List Turn
  grain : Grain
  deriving DecidableEq, Repr

/-- The whole state. -/
structure State where
  /-- The build parameters (R5); no step changes them. -/
  build : Build
  gen   : Gen
  win   : Window
  seq   : Sequencer
  host  : HostAgent
  /-- The provider calls made so far, oldest first (R151); the model's record. -/
  trace : List ProviderCall
  /-- How many free values host reads have drawn (R89); the model's own. -/
  draws : Nat
  deriving DecidableEq, Repr

/-- Why the machine stops with a fault.  No command raises one: an error of the block is a code in STATUS.ERR and a next
state (R300). -/
inductive Fault where
  /-- A host access that does not lie in the register window: R80 gives no such address.  Raised by a host access only.
  Safe. -/
  | outsideWindow
  deriving DecidableEq, Repr

/-- Why a step has no meaning. -/
inductive Refusal where
  /-- A command without a meaning yet; raised by `exec` alone.  Safe. -/
  | notModelled (mnemonic : String)
  /-- A host access of a wrong width or alignment, which R86 refuses.  Raised by a host access only.  Safe. -/
  | badAccess
  /-- A host write to CMD, ARG, LEN0 to LEN2 or IN0 to IN2 while BUSY is 1, which R361 refuses.  Raised by a host write only.
  Safe. -/
  | writeWhileBusy
  deriving DecidableEq, Repr

/-- The generator state after reset and after ZERO (R35, R60). -/
def Gen.reset : Gen where
  inst := false
  variant := 0
  minEnt := 0
  k := zeros 32
  v := zeros 32
  cnt := 0

/-- The host registers after reset (R60). -/
def Window.reset : Window where
  arg := 0
  len0 := 0
  len1 := 0
  len2 := 0
  outLen := 0
  dbgCntLo := 0
  dbgCntHi := 0
  done := false
  err := .ok
  mem := []

/-- The hidden state after reset (R60). -/
def Sequencer.reset : Sequencer where
  phase := .idle
  lcmd := 0
  udata := none
  uret := .instSeed
  tbuf := []
  nreq := 0
  adata := none
  outcome := .ok

/-- No host program: the block runs no stored program and has no reset vector (R52, R352). -/
def HostAgent.reset : HostAgent where
  prog := []
  pc := 0
  reads := []
  turns := []
  grain := .command

/-- The machine of a build right after reset. -/
def State.resetOf (b : Build) : State where
  build := b
  gen := Gen.reset
  win := Window.reset
  seq := Sequencer.reset
  host := HostAgent.reset
  trace := []
  draws := 0

/-- The machine right after reset, in the default build (R5, R60). -/
def State.reset : State := State.resetOf Config.defaultBuild

end Sys2Proof.Machine
end

