-- ==== Sys2Proof/Machine/Flags.lean ====
section
/-! DEFINITION. STATUS and its fields, the error codes, the comparator: everything the spec computes from state as a flag
(10_state.md rule R43, 60_exceptions.md rule R301, 41_counter_unit.md rule R171). -/

namespace Sys2Proof.Machine

/-- The code of an outcome (R301). -/
def ErrKind.code : ErrKind → BitVec 4
  | .ok => 0
  | .unsupportedHashVariant => 1
  | .reseedRequired => 2
  | .insufficientEntropy => 3
  | .notInstantiated => 4
  | .invalidLength => 5
  | .illegalCommand => 6

/-- The 4-bit code of a phase (R55). -/
def Phase.code : Phase → BitVec 4
  | .idle => 0
  | .check => 1
  | .updK0 => 2
  | .updV0 => 3
  | .updK1 => 4
  | .updV1 => 5
  | .genBlock => 6
  | .genTrunc => 7
  | .cntOp => 8
  | .complete => 9

/-- STATUS.BUSY: 1 exactly when the phase is not IDLE (R55). -/
def State.busy (s : State) : Bool := s.seq.phase != .idle

/-- A STATUS bit as a word. -/
def statusBit (b : Bool) (n : Nat) : Word := (BitVec.ofBool b).setWidth 32 <<< n

/-- The STATUS register (R43): BUSY 0, DONE 1, INST 2, ERR 7:4, VARIANT 9:8, every other bit 0.  INST and VARIANT mirror the
generator state. -/
def State.status (s : State) : Word :=
  statusBit s.busy 0 ||| statusBit s.win.done 1 ||| statusBit s.gen.inst 2
    ||| (s.win.err.code.setWidth 32 <<< 4) ||| (s.gen.variant.setWidth 32 <<< 8)

/-- The bits of STATUS that read exactly while BUSY is 1: BUSY, DONE and ERR (R89). -/
def statusExactMask : Word := 0x000000F3

/-- What STATUS reads while BUSY is 1: BUSY, DONE and ERR exactly, every other bit from the free value (R89). -/
def State.statusWhileBusy (s : State) (free : Word) : Word :=
  (s.status &&& statusExactMask) ||| (free &&& ~~~statusExactMask)

/-- The comparator: `EXHAUSTED = (CNT = 0)` on the whole 64-bit value (R171). -/
def State.exhausted (s : State) : Bool := s.gen.cnt == 0

end Sys2Proof.Machine
end

