-- ==== Sys2Proof/Machine/Memory.lean ====
section
/-! DEFINITION. The window's bytes: canonical form, reading, writing, clearing. -/

namespace Sys2Proof.Machine

/-- The canonical form above an offset: offsets strictly rising from `lo` on, no byte 0x00. -/
def Memory.wfFrom : Nat → Memory → Bool
  | _, [] => true
  | lo, c :: m => lo ≤ c.1 && c.2 != 0 && Memory.wfFrom (c.1 + 1) m

/-- The canonical form. -/
def Memory.wf (m : Memory) : Bool := Memory.wfFrom 0 m

/-- The byte at an offset; an unlisted offset reads 0x00 (R60, R85). -/
def Memory.read : Memory → Nat → Byte
  | [], _ => 0
  | c :: m, a => if a = c.1 then c.2 else Memory.read m a

/-- A cell put before `m`, unless it holds what an unlisted offset reads as. -/
def Memory.push (a : Nat) (b : Byte) (m : Memory) : Memory := if b = 0 then m else (a, b) :: m

/-- Stores one byte and keeps the canonical form. -/
def Memory.write : Memory → Nat → Byte → Memory
  | [], a, b => Memory.push a b []
  | c :: m, a, b =>
    if a < c.1 then Memory.push a b (c :: m)
    else if a = c.1 then Memory.push a b m
    else c :: Memory.write m a b

/-- Stores a byte string at consecutive offsets, index 0 at `a` (R82). -/
def Memory.writeBytes : Memory → Nat → Bytes → Memory
  | m, _, [] => m
  | m, a, b :: bs => Memory.writeBytes (Memory.write m a b) (a + 1) bs

/-- The `n` bytes from offset `a` on (R82). -/
def Memory.readBytes (m : Memory) (a n : Nat) : Bytes := (List.range n).map fun i => Memory.read m (a + i)

/-- Fills the `n` bytes from offset `a` on with 0x00. -/
def Memory.clear (m : Memory) (a n : Nat) : Memory := m.filter fun c => !(a ≤ c.1 && c.1 < a + n)

end Sys2Proof.Machine
end

