-- ==== Sys2Proof/Machine/Variants.lean ====
section
/-! DEFINITION. The `VARIANTS` map of a build (00_scope.md rules R5, R6). -/

namespace Sys2Proof.Config

/-- What is attached to a variant code.  Code 0 is always attached, with DL 32 and default minimum entropy 24 (R6). -/
def Build.variantInfo (b : Build) (code : BitVec 2) : Option VariantInfo :=
  match code.toNat with
  | 0 => some { dl := 32, defMin := some 24 }
  | 1 => b.variant1
  | 2 => b.variant2
  | _ => b.variant3

/-- `DL(code)`; 0 for a code with no provider, which no instance has. -/
def Build.digestLen (b : Build) (code : BitVec 2) : Nat :=
  match b.variantInfo code with
  | some i => i.dl
  | none => 0

/-- The window's size in bytes (R80, D7). -/
def windowSize : Nat := 0x11000

/-- The platform address of a window offset: the window stands at BASE (R80, D7). -/
def Build.busAddress (b : Build) (off : Nat) : Nat := b.base + off

/-- The window offset a platform address names, where the platform routes it to the window (R80, R91). -/
def Build.windowOffset (b : Build) (addr : Nat) : Option Nat :=
  if b.base ≤ addr ∧ addr < b.base + windowSize then some (addr - b.base) else none

end Sys2Proof.Config

namespace Sys2Proof.Machine

/-- The physical K register: DL_MAX bytes, those past K's own 0x00 (R31). -/
def Gen.kRegister (g : Gen) : Bytes := g.k ++ zeros (Config.dlMax - g.k.length)

/-- The physical V register (R31). -/
def Gen.vRegister (g : Gen) : Bytes := g.v ++ zeros (Config.dlMax - g.v.length)

end Sys2Proof.Machine
end

