-- ==== Sys2Proof/Machine/Window.lean ====
section
/-! DEFINITION. The register window's map: control registers, buffers and reserved locations (10_state.md rule R40,
20_memory.md rules R80, R81, R85). -/

namespace Sys2Proof.Machine

open Sys2Proof.Config (Build)

/-- The control registers of R40. -/
inductive Reg where
  | cmd
  | arg
  | status
  | minEnt
  | len0
  | len1
  | len2
  | outLen
  | dbgCntLo
  | dbgCntHi
  deriving DecidableEq, Repr

/-- The byte buffers of R40. -/
inductive Buf where
  | in0
  | in1
  | in2
  | dbgK
  | dbgV
  | out
  deriving DecidableEq, Repr

/-- Register offsets (R40). -/
def Reg.offset : Reg → Nat
  | .cmd => 0x000
  | .arg => 0x004
  | .status => 0x008
  | .minEnt => 0x00C
  | .len0 => 0x010
  | .len1 => 0x014
  | .len2 => 0x018
  | .outLen => 0x01C
  | .dbgCntLo => 0x020
  | .dbgCntHi => 0x024

/-- The register at an offset (R40). -/
def regAt (off : Nat) : Option Reg :=
  match off with
  | 0x000 => some .cmd
  | 0x004 => some .arg
  | 0x008 => some .status
  | 0x00C => some .minEnt
  | 0x010 => some .len0
  | 0x014 => some .len1
  | 0x018 => some .len2
  | 0x01C => some .outLen
  | 0x020 => some .dbgCntLo
  | 0x024 => some .dbgCntHi
  | _ => none

/-- The first offset past the control registers (R40). -/
def controlEnd : Nat := 0x028

/-- Buffer offsets (R40). -/
def Buf.offset : Buf → Nat
  | .in0 => 0x400
  | .in1 => 0x500
  | .in2 => 0x600
  | .dbgK => 0x700
  | .dbgV => 0x740
  | .out => 0x1000

/-- How many bytes of a buffer exist in a build (R40, R85): MAX_IN_LEN, MAX_OUT_LEN, or DL_MAX. -/
def Buf.size (b : Build) : Buf → Nat
  | .in0 => b.maxInLen
  | .in1 => b.maxInLen
  | .in2 => b.maxInLen
  | .dbgK => Config.dlMax
  | .dbgV => Config.dlMax
  | .out => b.maxOutLen

/-- The offset is a byte of the buffer. -/
def Buf.holds (b : Build) (f : Buf) (off : Nat) : Bool := f.offset ≤ off && off < f.offset + f.size b

/-- The offset is a byte of an operand buffer, which the host may write (R47). -/
def inputByte (b : Build) (off : Nat) : Bool := Buf.in0.holds b off || Buf.in1.holds b off || Buf.in2.holds b off

/-- The offset is a byte of a read-only buffer (R48, R49). -/
def outputByte (b : Build) (off : Nat) : Bool := Buf.dbgK.holds b off || Buf.dbgV.holds b off || Buf.out.holds b off

/-- The offset is a byte of some buffer; every other offset past the control registers is reserved (R85). -/
def bufferByte (b : Build) (off : Nat) : Bool := inputByte b off || outputByte b off

/-- `buf[f] <- bs` from index 0 on; bytes the build does not have are not stored (R40). -/
def State.storeBuf (f : Buf) (bs : Bytes) (s : State) : State :=
  { s with win.mem := s.win.mem.writeBytes f.offset (bs.take (f.size s.build)) }

/-- Fills a buffer with 0x00. -/
def State.clearBuf (f : Buf) (s : State) : State :=
  { s with win.mem := s.win.mem.clear f.offset (f.size s.build) }

/-- The first `n` bytes of a buffer; there are at most its size. -/
def State.loadBuf (f : Buf) (n : Nat) (s : State) : Bytes := s.win.mem.readBytes f.offset (min n (f.size s.build))

/-- The byte at an offset past the control registers: a buffer's byte, or 0 where reserved (R85). -/
def State.byteAt (s : State) (off : Nat) : Byte := if bufferByte s.build off then s.win.mem.read off else 0

/-- The value of a control register (R41 to R45, R48, R50).  CMD reads 0; STATUS and MINENT are mirrors. -/
def State.readReg (s : State) : Reg → Word
  | .cmd => 0
  | .arg => s.win.arg
  | .status => s.status
  | .minEnt => s.gen.minEnt
  | .len0 => s.win.len0
  | .len1 => s.win.len1
  | .len2 => s.win.len2
  | .outLen => s.win.outLen
  | .dbgCntLo => s.win.dbgCntLo
  | .dbgCntHi => s.win.dbgCntHi

/-- The registers whose host writes are refused while BUSY is 1 (R87). -/
def Reg.isOperand : Reg → Bool
  | .cmd => true
  | .arg => true
  | .len0 => true
  | .len1 => true
  | .len2 => true
  | .status => false
  | .minEnt => false
  | .outLen => false
  | .dbgCntLo => false
  | .dbgCntHi => false

/-- A host write to a control register other than CMD: ARG and LEN0 to LEN2 hold the full value written (R42, R45), the rest
ignore it (R87). -/
def State.writeReg (r : Reg) (x : Word) (s : State) : State :=
  match r with
  | .arg => { s with win.arg := x }
  | .len0 => { s with win.len0 := x }
  | .len1 => { s with win.len1 := x }
  | .len2 => { s with win.len2 := x }
  | .cmd => s
  | .status => s
  | .minEnt => s
  | .outLen => s
  | .dbgCntLo => s
  | .dbgCntHi => s

end Sys2Proof.Machine
end

