-- ==== Sys2Proof/Machine/Operands.lean ====
section
/-! DEFINITION. Every operand form of the commands (10_state.md rules R45, R46, 30_encoding.md rules R112, R113, R117). -/

namespace Sys2Proof.Machine

/-- `operand(IN0, LEN0)` (R13, R45). -/
def State.operand0 (s : State) : Bytes := s.loadBuf .in0 s.win.len0.toNat

/-- `operand(IN1, LEN1)`. -/
def State.operand1 (s : State) : Bytes := s.loadBuf .in1 s.win.len1.toNat

/-- `operand(IN2, LEN2)`. -/
def State.operand2 (s : State) : Bytes := s.loadBuf .in2 s.win.len2.toNat

/-- A used length register is within MAX_IN_LEN (R307, R310). -/
def State.fits (s : State) (len : Word) : Bool := len.toNat ≤ s.build.maxInLen

/-- `optP(0)` (R117): the additional input of GEN and GENS, absent where P is 0 and possibly `present([])` where it is 1. -/
def State.additionalInput (add : Bool) (s : State) : Opt := if add then some s.operand0 else none

/-- The personalization of INST: used where P is 1, else empty (R112, R190, D51). -/
def State.personalization (pers : Bool) (s : State) : Bytes := if pers then s.operand2 else []

/-- The seed of INST, `entropy ‖ nonce ‖ (personalization or empty)` (R83, R191). -/
def State.instSeed (pers : Bool) (s : State) : Bytes := s.operand0 ++ s.operand1 ++ s.personalization pers

/-- The seed of RSD, `entropy ‖ additionalData` (R83, R243). -/
def State.rsdSeed (s : State) : Bytes := s.operand0 ++ s.operand1

/-- The minimum entropy INST would fix: ARG where O is 1, else the variant's default where it has one (R113, R193). -/
def State.instMinEnt (override : Bool) (defMin : Option Word) (s : State) : Option Word :=
  if override then some s.win.arg else defMin

end Sys2Proof.Machine
end

