-- ==== Sys2Proof/Machine/Provider.lean ====
section
/-! DEFINITION. The keyed-hash provider behind the request/response port of 40_update_engine.md rule R145.
PRESUMED (unsafe, notes/assumptions/3.md): R145 names HMAC-SHA-256 for code 0 and marks it as general knowledge (FIPS 198-1
over FIPS 180-4); this file takes the function from there.  The providers of codes 1 to 3 are free. -/

namespace Sys2Proof.Machine

/-! ### Numbers as big-endian bytes and words -/

/-- The `n` low bytes of a number, the most significant first. -/
def bigEndian (n x : Nat) : Bytes := (List.range n).map fun i => BitVec.ofNat 8 (x >>> (8 * (n - 1 - i)))

/-- The `n` low 32-bit words of a number, the most significant first. -/
def wordsOfNat (n x : Nat) : List Word := (List.range n).map fun i => BitVec.ofNat 32 (x >>> (32 * (n - 1 - i)))

/-- The number a byte string is, the first byte most significant. -/
def natOfBytes (bs : Bytes) : Nat := bs.foldl (fun x b => 256 * x + b.toNat) 0

/-! ### The hash -/

/-- Half of the eight working words: a to d, or e to h. -/
structure ShaHalf where
  w0 : Word
  w1 : Word
  w2 : Word
  w3 : Word
  deriving DecidableEq, Repr

/-- The working words, `abcd` and `efgh`.  A round moves each half one place on and puts one new word in front of it. -/
structure ShaState where
  abcd : ShaHalf
  efgh : ShaHalf
  deriving DecidableEq, Repr

/-- A new word in front, the last one out. -/
def ShaHalf.push (x : Word) (q : ShaHalf) : ShaHalf := ⟨x, q.w0, q.w1, q.w2⟩

/-- Word by word sum. -/
def ShaHalf.plus (p q : ShaHalf) : ShaHalf := ⟨p.w0 + q.w0, p.w1 + q.w1, p.w2 + q.w2, p.w3 + q.w3⟩

/-- Four words from 128 bits. -/
def ShaHalf.ofNat (x : Nat) : ShaHalf :=
  ⟨BitVec.ofNat 32 (x >>> 96), BitVec.ofNat 32 (x >>> 64), BitVec.ofNat 32 (x >>> 32), BitVec.ofNat 32 x⟩

/-- The sixteen bytes of a half. -/
def ShaHalf.toBytes (q : ShaHalf) : Bytes :=
  bigEndian 4 q.w0.toNat ++ bigEndian 4 q.w1.toNat ++ bigEndian 4 q.w2.toNat ++ bigEndian 4 q.w3.toNat

/-- The first 32 fraction bits of the square roots of the first eight primes. -/
def shaInitial : ShaState where
  abcd := ShaHalf.ofNat 0x6a09e667bb67ae853c6ef372a54ff53a
  efgh := ShaHalf.ofNat 0x510e527f9b05688c1f83d9ab5be0cd19

/-- The round constants, eight to a number: the first 32 fraction bits of the cube roots of the first 64 primes. -/
def shaRoots : List Nat :=
  [0x428a2f9871374491b5c0fbcfe9b5dba53956c25b59f111f1923f82a4ab1c5ed5,
   0xd807aa9812835b01243185be550c7dc372be5d7480deb1fe9bdc06a7c19bf174,
   0xe49b69c1efbe47860fc19dc6240ca1cc2de92c6f4a7484aa5cb0a9dc76f988da,
   0x983e5152a831c66db00327c8bf597fc7c6e00bf3d5a7914706ca635114292967,
   0x27b70a852e1b21384d2c6dfc53380d13650a7354766a0abb81c2c92e92722c85,
   0xa2bfe8a1a81a664bc24b8b70c76c51a3d192e819d6990624f40e3585106aa070,
   0x19a4c1161e376c082748774c34b0bcb5391c0cb34ed8aa4a5b9cca4f682e6ff3,
   0x748f82ee78a5636f84c878148cc7020890befffaa4506cebbef9a3f7c67178f2]

/-- The round constants in order. -/
def shaConstants : List Word := shaRoots.flatMap (wordsOfNat 8)

/-- The exclusive or of `x` rotated right by each of the amounts. -/
def xorRotations (amounts : List Nat) (x : Word) : Word := amounts.foldl (fun acc n => acc ^^^ x.rotateRight n) 0

/-- One round; `kw` is the round constant plus the schedule word.  Each bit of the choice is f's where e's is 1 and g's
elsewhere; each bit of the majority is the value two of a, b, c have. -/
def shaRound (kw : Word) (s : ShaState) : ShaState :=
  let choice := s.efgh.w2 ^^^ (s.efgh.w0 &&& (s.efgh.w1 ^^^ s.efgh.w2))
  let majority := (s.abcd.w0 &&& (s.abcd.w1 ||| s.abcd.w2)) ||| (s.abcd.w1 &&& s.abcd.w2)
  let t := kw + s.efgh.w3 + choice + xorRotations [6, 11, 25] s.efgh.w0
  { abcd := s.abcd.push (t + majority + xorRotations [2, 13, 22] s.abcd.w0)
    efgh := s.efgh.push (s.abcd.w3 + t) }

/-- The word of the schedule that follows sixteen: the window moves one word on. -/
def shaScheduleNext (w : List Word) : List Word :=
  let far := w.getD 1 0
  let near := w.getD 14 0
  w.tail ++ [(xorRotations [17, 19] near ^^^ near >>> 10) + w.getD 9 0 + (xorRotations [7, 18] far ^^^ far >>> 3) + w.headD 0]

/-- The rounds of the constants listed; `w` is the schedule's window, its first word the one of the next round. -/
def shaRounds (w : List Word) (s : ShaState) : List Word → ShaState
  | [] => s
  | k :: ks => shaRounds (shaScheduleNext w) (shaRound (k + w.headD 0) s) ks

/-- One 64-byte block. -/
def shaBlock (s : ShaState) (block : Bytes) : ShaState :=
  let r := shaRounds (wordsOfNat 16 (natOfBytes block)) s shaConstants
  { abcd := s.abcd.plus r.abcd, efgh := s.efgh.plus r.efgh }

/-- What follows a message of `len` bytes: 0x80, zero bytes up to 8 short of a multiple of 64, and its length in bits. -/
def shaTail (len : Nat) : Bytes := 0x80 :: zeros ((119 - len % 64) % 64) ++ bigEndian 8 (8 * len)

/-- `n` blocks from the front of a byte string. -/
def shaBlocks : Nat → Bytes → ShaState → ShaState
  | 0, _, s => s
  | n + 1, bs, s => shaBlocks n (bs.drop 64) (shaBlock s (bs.take 64))

/-- SHA-256. -/
def sha256 (m : Bytes) : Bytes :=
  let padded := m ++ shaTail m.length
  let r := shaBlocks (padded.length / 64) padded shaInitial
  r.abcd.toBytes ++ r.efgh.toBytes

/-! ### The keyed hash -/

/-- One of HMAC's two passes: the key, filled up with zeros to a block and masked, then the text. -/
def hmacPass (mask : Byte) (key text : Bytes) : Bytes :=
  sha256 (((key ++ zeros 64).take 64).map (mask ^^^ ·) ++ text)

/-- HMAC-SHA-256; a key longer than a block is hashed first. -/
def hmacSha256 (key message : Bytes) : Bytes :=
  let short := if key.length ≤ 64 then key else sha256 key
  hmacPass 0x5c short (hmacPass 0x36 short message)

/-- The provider: a total function of (variant, key, message) to DL(variant) bytes, with no state across calls (R145, R14).
`dl` is the digest length of a free provider; builds that give a code the same one share its function (DESIGN CHOICE,
notes/assumptions/3.md). -/
def providerDigest (variant : BitVec 2) (dl : Nat) (key message : Bytes) : Bytes :=
  if variant = 0 then hmacSha256 key message
  else (List.range dl).map fun i => Config.freeDigestByte variant dl key message i

end Sys2Proof.Machine
end

