-- ==== Sys2Proof/Machine/Ops.lean ====
section
/-! DEFINITION. The shared operations: provider calls, the update engine (40_update_engine.md), the counter unit
(41_counter_unit.md), issue, completion and the error result (45_control_debug.md rules R261, R262, 60_exceptions.md
rule R315), and the check order (R310). -/

namespace Sys2Proof.Machine

open Sys2Proof.Config (Build)

/-! ### Provider calls -/

/-- `HMAC(key, message)` under the instance's variant (R14). -/
def State.hmac (s : State) (key message : Bytes) : Bytes :=
  providerDigest s.gen.variant (s.build.digestLen s.gen.variant) key message

/-- The provider's event for `HMAC(K, message)` (R151). -/
def State.callEvent (s : State) (message : Bytes) : ProviderCall where
  variant := s.gen.variant
  key := s.gen.k
  message := message
  digest := s.hmac s.gen.k message

/-- `K <- HMAC(K, message)`: one provider call; key and message are read before K is written (R149). -/
def State.rekey (message : Bytes) (s : State) : State :=
  { s with gen.k := s.hmac s.gen.k message, trace := s.trace ++ [s.callEvent message] }

/-- `V <- HMAC(K, V)`: one provider call, no separator byte (R142). -/
def State.chain (s : State) : State :=
  { s with gen.v := s.hmac s.gen.k s.gen.v, trace := s.trace ++ [s.callEvent s.gen.v] }

/-! ### The update engine -/

/-- Step 1: `K <- HMAC(K, V ‖ 0x00 ‖ orEmpty(UDATA))` (R141). -/
def State.updK0 (s : State) : State := s.rekey (s.gen.v ++ [0x00] ++ orEmpty s.seq.udata)

/-- Step 2: `V <- HMAC(K, V)` (R142). -/
def State.updV0 (s : State) : State := s.chain

/-- Step 4: `K <- HMAC(K, V ‖ 0x01 ‖ s)` where UDATA = present(s) (R144). -/
def State.updK1 (s : State) : State := s.rekey (s.gen.v ++ [0x01] ++ orEmpty s.seq.udata)

/-- Step 5: `V <- HMAC(K, V)` (R142). -/
def State.updV1 (s : State) : State := s.chain

/-- Hands the update its data operand and its return (R57, R150). -/
def State.setUpdate (ret : URet) (d : Opt) (s : State) : State := { s with seq.udata := d, seq.uret := ret }

/-- `UPDATE(d)` (R140): steps 1 and 2, and steps 4 and 5 where d is present, the empty string included (R143). -/
def State.update (ret : URet) (d : Opt) (s : State) : State :=
  let s2 := (s.setUpdate ret d).updK0.updV0
  match d with
  | none => s2
  | some _ => s2.updK1.updV1

/-! ### The counter unit -/

/-- Decrement (R173). -/
def State.decrementCnt (s : State) : State := { s with gen.cnt := s.gen.cnt - 1 }

/-- Reload (R174). -/
def State.reloadCnt (s : State) : State := { s with gen.cnt := s.build.ri }

/-! ### Generation -/

/-- Latches NREQ, ADATA and an empty TBUF for GEN and GENS (R58, R210 "T <- []").  R58 and R153 name no moment for it; it is
done in CHECK's exit, once every check has passed (DESIGN CHOICE, notes/assumptions/13.md). -/
def State.startGen (a : Opt) (s : State) : State :=
  { s with seq.nreq := s.win.arg, seq.adata := a, seq.tbuf := [] }

/-- One pass of the loop: `V <- HMAC(K, V)`, `TBUF <- TBUF ‖ V` (R153, R214). -/
def State.genBlock (s : State) : State :=
  let s1 := s.chain
  { s1 with seq.tbuf := s1.seq.tbuf ++ s1.gen.v }

/-- `len(TBUF) < NREQ` (R153, R210). -/
def State.wantsBlock (s : State) : Bool := s.seq.tbuf.length < s.seq.nreq.toNat

/-- `while len(T) < n` (R210), at most `fuel` passes; NREQ passes are enough, since every pass adds at least one byte. -/
def State.genLoop : Nat → State → State
  | 0, s => s
  | fuel + 1, s => if s.wantsBlock then State.genLoop fuel s.genBlock else s

/-- `OUT[0 .. n-1] <- take(n, T); OUTLEN <- n` (R153, R210, R214). -/
def State.genTrunc (s : State) : State :=
  let s1 := s.storeBuf .out (s.seq.tbuf.take s.seq.nreq.toNat)
  { s1 with win.outLen := s.seq.nreq }

/-! ### Debug registers -/

/-- `DBG_K[0 .. DL-1] <- K; DBG_V[0 .. DL-1] <- V` (R225, R268). -/
def State.showKV (s : State) : State :=
  let dl := s.build.digestLen s.gen.variant
  (s.storeBuf .dbgK (s.gen.k.take dl)).storeBuf .dbgV (s.gen.v.take dl)

/-- `DBG_CNT_LO <- CNT[31:0]; DBG_CNT_HI <- CNT[63:32]` (R268). -/
def State.showCnt (s : State) : State :=
  { s with win.dbgCntLo := s.gen.cnt.extractLsb' 0 32, win.dbgCntHi := s.gen.cnt.extractLsb' 32 32 }

/-! ### Instances -/

/-- The writes of INST that precede its update (R190, R195). -/
def State.loadInstance (var : BitVec 2) (m : Word) (s : State) : State :=
  { s with gen := { inst := true, variant := var, minEnt := m, k := zeros (s.build.digestLen var),
                    v := fill (s.build.digestLen var) 0x01, cnt := s.build.ri } }

/-- The wipe (R272): the reset generator state. -/
def State.wipe (s : State) : State := { s with gen := Gen.reset }

/-! ### Issue, completion and errors -/

/-- ISSUE(w) (R261).  BUSY becomes 1 with the phase. -/
def State.issue (w : Word) (s : State) : State :=
  let s1 := ((s.clearBuf .out).clearBuf .dbgK).clearBuf .dbgV
  { s1 with
    seq := { s.seq with phase := .check, lcmd := w, outcome := .ok }
    win.done := false
    win.err := .ok
    win.outLen := 0
    win.dbgCntLo := 0
    win.dbgCntHi := 0 }

/-- COMPLETE(code) (R262). -/
def State.complete (code : ErrKind) (s : State) : State :=
  let s1 := ((s.clearBuf .in0).clearBuf .in1).clearBuf .in2
  { s1 with
    win.err := code
    win.len0 := 0
    win.len1 := 0
    win.len2 := 0
    win.arg := 0
    win.done := true
    seq := { s.seq with phase := .idle, tbuf := [], udata := none, adata := none, nreq := 0, outcome := .ok } }

/-- `raise E` (R15, R300, R315), the block's whole exception entry: nothing is saved but the code, nothing is vectored, and no
return is needed, since the next ISSUE clears ERR and DONE (R316). -/
def State.raiseError (e : ErrKind) (s : State) : State := s.complete e

/-! ### Checks, in the order of R310 -/

/-- The checks of INST (R190, R193, R194); where all pass, the minimum entropy it will fix. -/
def State.checkInst (pers override : Bool) (var : BitVec 2) (s : State) : Except ErrKind Word :=
  if !s.fits s.win.len0 || !s.fits s.win.len1 || (pers && !s.fits s.win.len2) then .error .invalidLength else
  match s.build.variantInfo var with
  | none => .error .unsupportedHashVariant
  | some info =>
    match s.instMinEnt override info.defMin with
    | none => .error .unsupportedHashVariant
    | some m =>
      if s.build.instEntropyCheck && s.win.len0.toNat < m.toNat then .error .insufficientEntropy else .ok m

/-- The checks of GEN and GENS (R210, R211); the error of the first that fails. -/
def State.checkGen (add : Bool) (s : State) : Option ErrKind :=
  if !s.gen.inst then some .notInstantiated
  else if s.win.arg = 0 || s.win.arg.toNat > s.build.maxOutLen || (add && !s.fits s.win.len0) then some .invalidLength
  else if s.exhausted then some .reseedRequired
  else none

/-- The checks of RSD (R240, R241). -/
def State.checkRsd (s : State) : Option ErrKind :=
  if !s.gen.inst then some .notInstantiated
  else if !s.fits s.win.len0 || !s.fits s.win.len1 then some .invalidLength
  else if s.win.len0.toNat < s.gen.minEnt.toNat then some .insufficientEntropy
  else none

end Sys2Proof.Machine
end

