-- ==== Sys2Proof/Machine/Control.lean ====
section
/-! DEFINITION. NOP, RDST and ZERO (45_control_debug.md). -/

namespace Sys2Proof.Machine

open Host

/-- NOP (R265). -/
def execNop (s : State) : Outcome State Fault Refusal := .next (s.complete .ok)

/-- RDST (R268); IllegalCommand where DEBUG_ACCESS is false (R121). -/
def execRdst (s : State) : Outcome State Fault Refusal :=
  if s.build.debugAccess then .next (s.showKV.showCnt.complete .ok)
  else .next (s.raiseError .illegalCommand)

/-- ZERO (R272). -/
def execZero (s : State) : Outcome State Fault Refusal := .next (s.wipe.complete .ok)

end Sys2Proof.Machine
end

