-- ==== Sys2Proof/Machine/Generate.lean ====
section
/-! DEFINITION. GEN and GENS (43_generate.md). -/

namespace Sys2Proof.Machine

open Host

/-- Step 1 of GEN (R213): the pre-generation update, where additional input is present. -/
def State.preUpdate (a : Opt) (s : State) : State :=
  match a with
  | none => s
  | some _ => s.update .genPre a

/-- Steps 1 to 5 of a GEN that passed its checks (R210, R213 to R216). -/
def State.generate (add : Bool) (s : State) : State :=
  let a := s.additionalInput add
  let s1 := (s.startGen a).preUpdate a
  let s2 := (s1.genLoop s1.seq.nreq.toNat).genTrunc
  (s2.update .genPost a).decrementCnt

/-- GEN (R210). -/
def execGen (add : Bool) (s : State) : Outcome State Fault Refusal :=
  match s.checkGen add with
  | some e => .next (s.raiseError e)
  | none => .next ((s.generate add).complete .ok)

/-- GENS (R225): GEN, and then the post-command K and V in DBG_K and DBG_V; IllegalCommand where DEBUG_ACCESS is false. -/
def execGens (add : Bool) (s : State) : Outcome State Fault Refusal :=
  if s.build.debugAccess then
    match s.checkGen add with
    | some e => .next (s.raiseError e)
    | none => .next ((s.generate add).showKV.complete .ok)
  else .next (s.raiseError .illegalCommand)

end Sys2Proof.Machine
end

