-- ==== Sys2Proof/Machine/Instantiate.lean ====
section
/-! DEFINITION. INST (42_instantiate.md). -/

namespace Sys2Proof.Machine

open Host

/-- INST (R190): the checks, the initial values (R195), the full update on the seed (R196). -/
def execInst (pers override : Bool) (var : BitVec 2) (s : State) : Outcome State Fault Refusal :=
  match s.checkInst pers override var with
  | .error e => .next (s.raiseError e)
  | .ok m => .next (((s.loadInstance var m).update .instSeed (some (s.instSeed pers))).complete .ok)

end Sys2Proof.Machine
end

