-- ==== Sys2Proof/Machine/Reseed.lean ====
section
/-! DEFINITION. RSD (44_reseed.md). -/

namespace Sys2Proof.Machine

open Host

/-- RSD (R240): the checks, the update on the seed (R243), the reload (R244). -/
def execRsd (s : State) : Outcome State Fault Refusal :=
  match s.checkRsd with
  | some e => .next (s.raiseError e)
  | none => .next ((s.update .rsdSeed (some s.rsdSeed)).reloadCnt.complete .ok)

end Sys2Proof.Machine
end

