-- ==== Sys2Proof/Machine/Dispatch.lean ====
section
/-! DEFINITION. One arm per command: EXEC of 45_control_debug.md rule R263, each meaning ending in COMPLETE. -/

namespace Sys2Proof.Machine

open Host

def exec (i : Instr) (s : State) : Host.Outcome State Fault Refusal :=
  match i with
  | .nop => Sys2Proof.Machine.execNop s
  | .inst pers override var => Sys2Proof.Machine.execInst pers override var s
  | .gen add => Sys2Proof.Machine.execGen add s
  | .rsd => Sys2Proof.Machine.execRsd s
  | .gens add => Sys2Proof.Machine.execGens add s
  | .rdst => Sys2Proof.Machine.execRdst s
  | .zero => Sys2Proof.Machine.execZero s

end Sys2Proof.Machine
end

