-- ==== Sys2Proof/WellFormed.lean ====
section
/-! DEFINITION. Which commands are legal in a build (30_encoding.md rules R116, R121). -/

namespace Sys2Proof

/-- R121: GENS and RDST are commands of the block only where DEBUG_ACCESS is true.
Every other constraint of R116 (unused fields are 0, VAR is two bits) holds by the type of `Instr`. -/
def Instr.wellFormed (debugAccess : Bool) : Instr → Bool
  | .nop => true
  | .inst _ _ _ => true
  | .gen _ => true
  | .rsd => true
  | .gens _ => debugAccess
  | .rdst => debugAccess
  | .zero => true

end Sys2Proof
end

