-- ==== Sys2Proof/Decode.lean ====
section
/-! DEFINITION. Decoding and encoding of the 32-bit command word (30_encoding.md rules R110 to R122). -/

namespace Sys2Proof

/-- Why a word is `Illegal` (R120).  Every reason completes the command with the one code IllegalCommand (R305). -/
inductive DecodeError where
  /-- A RES bit (31:8) is set (R115). -/
  | reservedBits
  /-- OPC is 0x7 to 0xF (R116). -/
  | unassignedOpcode
  /-- A field the opcode does not use is not 0 (R112 to R114). -/
  | unusedField
  /-- GENS or RDST where DEBUG_ACCESS is false (R121). -/
  | debugDisabled
  /-- Fewer than four bytes: a command is exactly one 32-bit word (R111). -/
  | notAWord
  deriving DecidableEq, Repr

/-- OPC, bits 3:0 (R110). -/
def fieldOpc (w : Word) : BitVec 4 := w.extractLsb' 0 4

/-- P, bit 4 (R110). -/
def fieldP (w : Word) : Bool := w.getLsbD 4

/-- O, bit 5 (R110). -/
def fieldO (w : Word) : Bool := w.getLsbD 5

/-- VAR, bits 7:6 (R110). -/
def fieldVar (w : Word) : BitVec 2 := w.extractLsb' 6 2

/-- RES, bits 31:8 (R110). -/
def fieldRes (w : Word) : BitVec 24 := w.extractLsb' 8 24

/-- The rows whose fields P, O and VAR are all unused (R116). -/
def decodePlain (w : Word) (i : Instr) : Except DecodeError Instr :=
  if fieldP w = false ∧ fieldO w = false ∧ fieldVar w = 0 then .ok i else .error .unusedField

/-- The rows that use P only (R116). -/
def decodeWithP (w : Word) (i : Bool → Instr) : Except DecodeError Instr :=
  if fieldO w = false ∧ fieldVar w = 0 then .ok (i (fieldP w)) else .error .unusedField

/-- R121: what a row gives where it needs DEBUG_ACCESS. -/
def whenDebug (debugAccess : Bool) (r : Except DecodeError Instr) : Except DecodeError Instr :=
  if debugAccess then r else .error .debugDisabled

/-- The decode function of R120; `.error` is its `Illegal`. -/
def decode (debugAccess : Bool) (w : Word) : Except DecodeError Instr :=
  if fieldRes w ≠ 0 then .error .reservedBits else
  match (fieldOpc w).toNat with
  | 0x0 => decodePlain w .nop
  | 0x1 => .ok (.inst (fieldP w) (fieldO w) (fieldVar w))
  | 0x2 => decodeWithP w .gen
  | 0x3 => decodePlain w .rsd
  | 0x4 => whenDebug debugAccess (decodeWithP w .gens)
  | 0x5 => whenDebug debugAccess (decodePlain w .rdst)
  | 0x6 => decodePlain w .zero
  | _ => .error .unassignedOpcode

/-- The word of four byte lanes, the lowest offset in bits 7:0 (R84). -/
def wordOfLanes (b0 b1 b2 b3 : Byte) : Word := b3 ++ b2 ++ b1 ++ b0

/-- The four byte lanes of a word, the lowest offset first (R84). -/
def lanesOfWord (w : Word) : Bytes :=
  [w.extractLsb' 0 8, w.extractLsb' 8 8, w.extractLsb' 16 8, w.extractLsb' 24 8]

/-- Decoding from bytes: the first four are the command word (R111), the rest is handed back. -/
def decodeBytes (debugAccess : Bool) : Bytes → Except DecodeError (Instr × Bytes)
  | b0 :: b1 :: b2 :: b3 :: rest =>
    match decode debugAccess (wordOfLanes b0 b1 b2 b3) with
    | .ok i => .ok (i, rest)
    | .error e => .error e
  | _ => .error .notAWord

/-- The opcode of a command (R116). -/
def Instr.opcode : Instr → Word
  | .nop => 0x0
  | .inst _ _ _ => 0x1
  | .gen _ => 0x2
  | .rsd => 0x3
  | .gens _ => 0x4
  | .rdst => 0x5
  | .zero => 0x6

/-- A flag at its bit of the word (R125). -/
def flagBit (b : Bool) (bit : Word) : Word := if b then bit else 0

/-- The command word of a command, as the assembler of R125 builds it. -/
def encode (i : Instr) : Word :=
  match i with
  | .nop => i.opcode
  | .inst pers override var => i.opcode ||| (var.setWidth 32 <<< 6) ||| flagBit pers 0x10 ||| flagBit override 0x20
  | .gen add => i.opcode ||| flagBit add 0x10
  | .rsd => i.opcode
  | .gens add => i.opcode ||| flagBit add 0x10
  | .rdst => i.opcode
  | .zero => i.opcode

/-- What the host asks of the decoder: the command whose word is `w`, in the default build (DEBUG_ACCESS true there, log
entry 1).  The word's four lanes are handed to `decodeBytes`; bits at `nbits` and above are 0. -/
def decodeTableWord (nbits w : Nat) : Option Instr :=
  match decodeBytes Config.defaultBuild.debugAccess (lanesOfWord (BitVec.ofNat 32 (w % 2 ^ nbits))) with
  | .ok (i, _) => some i
  | .error _ => none

end Sys2Proof
end

