-- ==== Sys2Proof/Machine/Sequencer.lean ====
section
/-! DEFINITION. The sequencer's micro-sequence, one phase a step and one provider call a phase at most
(40_update_engine.md rules R150, R153). -/

namespace Sys2Proof.Machine

/-- Goes to a phase. -/
def State.goto (p : Phase) (s : State) : State := { s with seq.phase := p }

/-- Goes to COMPLETE with an outcome. -/
def State.finishWith (code : ErrKind) (s : State) : State :=
  { s with seq.outcome := code, seq.phase := .complete }

/-- `ret(URET)` (R150). -/
def URet.phase : URet → Phase
  | .instSeed => .complete
  | .genPre => .genBlock
  | .genPost => .cntOp
  | .rsdSeed => .cntOp

/-- Enters the update engine (R150). -/
def State.enterUpdate (ret : URet) (d : Opt) (s : State) : State := (s.setUpdate ret d).goto .updK0

/-- CHECK's exit for GEN and GENS (R153).  That NREQ and ADATA are latched here, and not where a check fails, is the model's
choice (notes/assumptions/13.md). -/
def State.enterGenerate (add : Bool) (s : State) : State :=
  match s.checkGen add with
  | some e => s.finishWith e
  | none =>
    let a := s.additionalInput add
    match a with
    | none => (s.startGen a).goto .genBlock
    | some _ => (s.startGen a).enterUpdate .genPre a

/-- CHECK: the decode, every check of R310, and the writes of CHECK's exit (R153). -/
def State.seqCheck (s : State) : State :=
  match decode s.build.debugAccess s.seq.lcmd with
  | .error _ => s.finishWith .illegalCommand
  | .ok i =>
    match i with
    | .nop => s.finishWith .ok
    | .inst pers override var =>
      match s.checkInst pers override var with
      | .error e => s.finishWith e
      | .ok m => (s.loadInstance var m).enterUpdate .instSeed (some (s.instSeed pers))
    | .gen add => s.enterGenerate add
    | .gens add => s.enterGenerate add
    | .rsd =>
      match s.checkRsd with
      | some e => s.finishWith e
      | none => s.enterUpdate .rsdSeed (some s.rsdSeed)
    | .rdst => s.showKV.showCnt.finishWith .ok
    | .zero => s.wipe.finishWith .ok

/-- CNT_OP (R153): decrement after GEN_POST, reload after RSD_SEED.  The other two returns never lead here (R150). -/
def State.seqCount (s : State) : State :=
  match s.seq.uret with
  | .genPost => s.decrementCnt
  | .rsdSeed => s.reloadCnt
  | .instSeed => s
  | .genPre => s

/-- COMPLETE (R153): for a GENS that succeeded first DBG_K and DBG_V, then R262. -/
def State.seqComplete (s : State) : State :=
  match decode s.build.debugAccess s.seq.lcmd, s.seq.outcome with
  | .ok (.gens _), .ok => s.showKV.complete s.seq.outcome
  | _, _ => s.complete s.seq.outcome

/-- One step of the sequencer; in IDLE it does nothing. -/
def seqStep (s : State) : State :=
  match s.seq.phase with
  | .idle => s
  | .check => s.seqCheck
  | .updK0 => s.updK0.goto .updV0
  | .updV0 => s.updV0.goto (if s.seq.udata.isNone then s.seq.uret.phase else .updK1)
  | .updK1 => s.updK1.goto .updV1
  | .updV1 => s.updV1.goto s.seq.uret.phase
  | .genBlock =>
    let s1 := s.genBlock
    s1.goto (if s1.wantsBlock then .genBlock else .genTrunc)
  | .genTrunc => s.genTrunc.enterUpdate .genPost s.seq.adata
  | .cntOp => s.seqCount.goto .complete
  | .complete => s.seqComplete

end Sys2Proof.Machine
end

