-- ==== Sys2Proof/Machine/HostPort.lean ====
section
/-! DEFINITION. The host's accesses to the register window (20_memory.md rules R80, R84 to R89, 70_reset_and_hazards.md
rule R361) and the issue of a command (45_control_debug.md rules R260, R263). -/

namespace Sys2Proof.Machine

open Host

/-- The bytes of an access (R80). -/
def AccessSize.bytes : AccessSize → Nat
  | .byte => 1
  | .half => 2
  | .word => 4

/-- The offsets an access covers. -/
def accessOffsets (off : Nat) (size : AccessSize) : List Nat := (List.range size.bytes).map (off + ·)

/-- The access is one R86 admits: among the control registers a word at a register's offset, past them any width at an
offset that is a multiple of it; every other access is refused (R86; 92_eei_decisions.md D9, 93_implementation_defined.md
I19).  Such an access to reserved locations has the meaning R85 gives them (DEDUCED, notes/assumptions/8.md). -/
def admitted (off : Nat) (size : AccessSize) : Bool :=
  if off < controlEnd then size == .word && off % 4 == 0 else off % size.bytes == 0

/-- The access starts in the window (R80).  One that R86 admits then lies in it whole. -/
def inWindow (off : Nat) : Bool := off < Config.windowSize

/-- Byte lanes to a value, the first byte in bits 7:0 (R84). -/
def valueOfLanes : Bytes → Word
  | [] => 0
  | b :: bs => b.setWidth 32 ||| (valueOfLanes bs <<< 8)

/-- The byte of lane `i` of a value (R84). -/
def laneOf (x : Word) (i : Nat) : Byte := (x >>> (8 * i)).setWidth 8

/-- The low bytes of a value an access of this width carries. -/
def truncateTo (size : AccessSize) (x : Word) : Word :=
  match size with
  | .byte => x &&& 0xFF
  | .half => x &&& 0xFFFF
  | .word => x

/-- What a read returns while BUSY is 0 (R85, R88). -/
def State.peek (s : State) (off : Nat) (size : AccessSize) : Word :=
  if off < controlEnd then
    match regAt off with
    | some r => s.readReg r
    | none => 0
  else valueOfLanes ((accessOffsets off size).map s.byteAt)

/-- What a read returns while BUSY is 1: a free value of its width, but for BUSY, DONE and ERR of STATUS (R89). -/
def State.peekWhileBusy (s : State) (off : Nat) (size : AccessSize) : Word :=
  let free := Config.freeWord s.draws
  if regAt off = some .status then s.statusWhileBusy free else truncateTo size free

/-- `MemRead(off, n)`: the value and the state after; no read has a side effect on the block (R88). -/
def busRead (off : Nat) (size : AccessSize) (s : State) : Outcome (Word × State) Fault Refusal :=
  if !inWindow off then .fault .outsideWindow
  else if !admitted off size then .refused .badAccess
  else if s.busy then .next (s.peekWhileBusy off size, { s with draws := s.draws + 1 })
  else .next (s.peek off size, s)

/-- Decodes LCMD and runs the command to its completion (R263); an illegal word completes with IllegalCommand (R305). -/
def runCommand (s : State) : Outcome State Fault Refusal :=
  match decode s.build.debugAccess s.seq.lcmd with
  | .ok i => exec i s
  | .error _ => .next (s.raiseError .illegalCommand)

/-- A write to CMD while BUSY is 0: ISSUE, and at command grain everything up to the completion in the same step (R263). -/
def startCommand (w : Word) (s : State) : Outcome State Fault Refusal :=
  match s.host.grain with
  | .command => runCommand (s.issue w)
  | .micro => .next (s.issue w)

/-- Stores the bytes of an access where they are operand bytes; read-only and reserved bytes ignore the write (R85, R87;
notes/assumptions/9.md). -/
def State.writeLanes (off : Nat) (x : Word) : List Nat → State → State
  | [], s => s
  | i :: is, s =>
    State.writeLanes off x is
      (if inputByte s.build (off + i) then { s with win.mem := s.win.mem.write (off + i) (laneOf x i) } else s)

/-- `MemWrite(off, n, x)` (R84 to R87, R361). -/
def busWrite (off : Nat) (size : AccessSize) (x : Word) (s : State) : Outcome State Fault Refusal :=
  if !inWindow off then .fault .outsideWindow
  else if !admitted off size then .refused .badAccess
  else
    match regAt off with
    | some r =>
      if r.isOperand && s.busy then .refused .writeWhileBusy
      else if r = .cmd then startCommand x s
      else .next (s.writeReg r x)
    | none =>
      if s.busy && (accessOffsets off size).any (inputByte s.build) then .refused .writeWhileBusy
      else .next (s.writeLanes off x (List.range size.bytes))

end Sys2Proof.Machine
end

