-- ==== Sys2Proof/Machine/HostProgram.lean ====
section
/-! DEFINITION. The host's statements (30_encoding.md rule R126), the reset input (70_reset_and_hazards.md rules R350, R351)
and who moves at a step. -/

namespace Sys2Proof.Machine

open Host

/-- The host goes on at its next statement. -/
def State.hostAdvance (s : State) : State := { s with host.pc := s.host.pc + 1 }

/-- The host goes on at a label. -/
def State.hostGoto (target : Nat) (s : State) : State := { s with host.pc := target }

/-- The host records a value it has read. -/
def State.hostRecord (off : Nat) (size : AccessSize) (x : Word) (s : State) : State :=
  { s with host.reads := s.host.reads ++ [{ off := off, size := size, value := x }] }

/-- `bits[hi:lo]` of a register value (R12).  Neither R12 nor R126 gives it a value where hi is below lo, or where hi or lo is
above 31; it is 0 in the first case, and bits above 31 are 0 in the second (DESIGN CHOICE, notes/assumptions/5.md). -/
def bitsOf (hi lo : Nat) (x : Word) : Nat := x.toNat / 2 ^ lo % 2 ^ (hi + 1 - lo)

/-- Continues with what a read gave. -/
def withRead (r : Outcome (Word × State) Fault Refusal) (f : Word → State → State) : Outcome State Fault Refusal :=
  match r with
  | .next (x, s) => .next (f x s)
  | .fault e => .fault e
  | .refused e => .refused e

/-- One host statement (R126).  `wait` reads STATUS once and stays where it is until DONE, bit 1, is 1. -/
def hostExec (st : HostStmt) (s : State) : Outcome State Fault Refusal :=
  match st with
  | .write off size x => busWrite off size x s.hostAdvance
  | .read off size => withRead (busRead off size s.hostAdvance) fun x t => t.hostRecord off size x
  | .wait => withRead (busRead Reg.status.offset .word s) fun x t => if x.getLsbD 1 then t.hostAdvance else t
  | .jeq off hi lo value target =>
    withRead (busRead off .word s) fun x t => if bitsOf hi lo x = value then t.hostGoto target else t.hostAdvance
  | .jmp target => .next (s.hostGoto target)

/-- The host's move: its next statement, or nothing once the last has executed (R371). -/
def hostStep (s : State) : Outcome State Fault Refusal :=
  match s.host.prog[s.host.pc]? with
  | some st => hostExec st s
  | none => .next s

/-- The reset input (R60, R350, R351): the block takes its reset values whatever it was doing.  The build, the host outside
the block and the model's records stay (notes/assumptions/11.md). -/
def State.resetBlock (s : State) : State :=
  { s with gen := Gen.reset, win := Window.reset, seq := Sequencer.reset }

/-- The move of one agent. -/
def takeTurn (t : Turn) (s : State) : Outcome State Fault Refusal :=
  match t with
  | .host => hostStep s
  | .sequencer => .next (seqStep s)
  | .reset => .next s.resetBlock

/-- Who moves where no turn is listed: the sequencer while a command runs (weak fairness, R370), else the host. -/
def State.defaultTurn (s : State) : Turn := if s.busy then .sequencer else .host

/-- One move: the next listed turn, else the default. -/
def nextMove (s : State) : Outcome State Fault Refusal :=
  match s.host.turns with
  | [] => takeTurn s.defaultTurn s
  | t :: ts => takeTurn t { s with host.turns := ts }

/-- The state in which the host's next move issues the command word `w` at command grain. -/
def State.placeCommand (w : Word) (s : State) : State :=
  { s with
    seq.phase := .idle
    host := { s.host with prog := [.write Reg.cmd.offset .word w], pc := 0, turns := [], grain := .command } }

end Sys2Proof.Machine
end

