-- ==== Sys2Proof/Machine/Step.lean ====
section
/-! DEFINITION. One step of the machine, and how the host places a command word. -/

namespace Sys2Proof.Machine

/-- One step (45_control_debug.md rule R263, and the micro-sequence of 40_update_engine.md at micro grain). -/
def step (s : State) : Host.Outcome State Fault Refusal := nextMove s

/-- `s` with a host program of one statement, the write of `w` to CMD, as the very next move (notes/assumptions/5.md). -/
def State.withFetchWord (s : State) (nbits w : Nat) : State := s.placeCommand (BitVec.ofNat 32 (w % 2 ^ nbits))

end Sys2Proof.Machine
end

