-- ==== Sys2Proof/Machine/HostNotation.lean ====
section
/-! DEFINITION. The assembler syntax of the commands and the host-program notation (30_encoding.md rules R125 to R127): text
of a command line to its word, statements with labels to the primitive statements the host runs. -/

namespace Sys2Proof.Machine

/-- `<var>` of R125. -/
inductive VarName where
  | sha256
  | v1
  | v2
  | v3
  deriving DecidableEq, Repr

/-- A command line of R125. -/
inductive AsmCmd where
  | nop
  | inst (var : Option VarName) (pers minent : Bool)
  | gen (add : Bool)
  | rsd
  | gens (add : Bool)
  | rdst
  | zero
  deriving DecidableEq, Repr

/-- The code of a variant name; `sha256` where omitted (R114, R125). -/
def varCode : Option VarName → BitVec 2
  | none => 0
  | some .sha256 => 0
  | some .v1 => 1
  | some .v2 => 2
  | some .v3 => 3

/-- The word a command line assembles to (R125). -/
def AsmCmd.word : AsmCmd → Word
  | .nop => 0x00000000
  | .inst var pers minent =>
    0x01 ||| ((varCode var).setWidth 32 <<< 6) ||| (if pers then 0x10 else 0) ||| (if minent then 0x20 else 0)
  | .gen add => 0x02 ||| (if add then 0x10 else 0)
  | .rsd => 0x03
  | .gens add => 0x04 ||| (if add then 0x10 else 0)
  | .rdst => 0x05
  | .zero => 0x06

/-- The command a line stands for (R116, R125). -/
def AsmCmd.instr : AsmCmd → Instr
  | .nop => .nop
  | .inst var pers minent => .inst pers minent (varCode var)
  | .gen add => .gen add
  | .rsd => .rsd
  | .gens add => .gens add
  | .rdst => .rdst
  | .zero => .zero

/-- Lower case of a letter: the syntax is case-insensitive (R125). -/
def lowerChar (c : Char) : Char := if 'A' ≤ c ∧ c ≤ 'Z' then Char.ofNat (c.toNat + 32) else c

/-- What separates the parts of a command line: blanks and commas, any number of them (DESIGN CHOICE, notes/assumptions/5.md). -/
def isSeparator (c : Char) : Bool := c = ' ' || c = ',' || c = '\t'

/-- The lower-case parts of a line, `part` being the one under way. -/
def splitLine : List Char → List Char → List (List Char)
  | part, [] => if part = [] then [] else [part]
  | part, c :: cs =>
    if isSeparator c then (if part = [] then splitLine [] cs else part :: splitLine [] cs)
    else splitLine (part ++ [lowerChar c]) cs

/-- Takes an optional part from the front. -/
def takeFlag (flag : String) : List (List Char) → Bool × List (List Char)
  | [] => (false, [])
  | p :: ps => if p = flag.toList then (true, ps) else (false, p :: ps)

/-- Takes an optional variant name from the front. -/
def takeVar : List (List Char) → Option VarName × List (List Char)
  | [] => (none, [])
  | p :: ps =>
    if p = "sha256".toList then (some .sha256, ps)
    else if p = "v1".toList then (some .v1, ps)
    else if p = "v2".toList then (some .v2, ps)
    else if p = "v3".toList then (some .v3, ps)
    else (none, p :: ps)

/-- A command, where nothing is left over of its line. -/
def whenEnd (c : AsmCmd) : List (List Char) → Option AsmCmd
  | [] => some c
  | _ => none

/-- Reads one command line (R125). -/
def parseCommand (line : String) : Option AsmCmd :=
  match splitLine [] line.toList with
  | [] => none
  | m :: ps =>
    if m = "nop".toList then whenEnd .nop ps
    else if m = "inst".toList then
      let (var, ps1) := takeVar ps
      let (pers, ps2) := takeFlag "pers" ps1
      let (minent, ps3) := takeFlag "minent" ps2
      whenEnd (.inst var pers minent) ps3
    else if m = "gen".toList then
      let (add, ps1) := takeFlag "add" ps
      whenEnd (.gen add) ps1
    else if m = "rsd".toList then whenEnd .rsd ps
    else if m = "gens".toList then
      let (add, ps1) := takeFlag "add" ps
      whenEnd (.gens add) ps1
    else if m = "rdst".toList then whenEnd .rdst ps
    else if m = "zero".toList then whenEnd .zero ps
    else none

/-- A statement of the host notation (R126); comments are none. -/
inductive AsmStmt where
  | label (name : String)
  | wr (r : Reg) (x : Word)
  | wrb (f : Buf) (bs : Bytes)
  | cmd (c : AsmCmd)
  | wait
  | rd (r : Reg)
  | rdb (f : Buf) (n : Nat)
  | jeq (r : Reg) (hi lo value : Nat) (target : String)
  | jmp (target : String)
  deriving DecidableEq, Repr

/-- How many primitive statements a statement becomes. -/
def AsmStmt.length : AsmStmt → Nat
  | .label _ => 0
  | .wr _ _ => 1
  | .wrb _ bs => bs.length
  | .cmd _ => 1
  | .wait => 1
  | .rd _ => 1
  | .rdb _ n => n
  | .jeq _ _ _ _ _ => 1
  | .jmp _ => 1

/-- Where a label stands, counted in primitive statements from `at0` on: it names the next statement (R126).  Where a program
has the label twice R126 does not say which one a jump reaches; the first is taken.  Where no statement follows the label R126 gives it no meaning; it stands for the end of the program, so a
jump there ends it (both DESIGN CHOICE, notes/assumptions/5.md). -/
def labelAddress (name : String) : List AsmStmt → Nat → Option Nat
  | [], _ => none
  | s :: ss, at0 => if s = .label name then some at0 else labelAddress name ss (at0 + s.length)

/-- The byte writes of `wrb`, at offsets 0, 1, 2, … of the buffer (R126). -/
def byteWrites (off : Nat) : Bytes → List HostStmt
  | [] => []
  | b :: bs => .write off .byte (b.setWidth 32) :: byteWrites (off + 1) bs

/-- One statement in primitive statements, with the labels of `whole`; none where a label is missing (R126).  R126 gives `wrb`
and `rdb` no meaning for more bytes than the buffer has; here their accesses go on past its end, to the offsets that follow
(DESIGN CHOICE, notes/assumptions/5.md). -/
def AsmStmt.expand (whole : List AsmStmt) : AsmStmt → Option (List HostStmt)
  | .label _ => some []
  | .wr r x => some [.write r.offset .word x]
  | .wrb f bs => some (byteWrites f.offset bs)
  | .cmd c => some [.write Reg.cmd.offset .word c.word]
  | .wait => some [.wait]
  | .rd r => some [.read r.offset .word]
  | .rdb f n => some ((List.range n).map fun i => .read (f.offset + i) .byte)
  | .jeq r hi lo value target => (labelAddress target whole 0).map fun t => [.jeq r.offset hi lo value t]
  | .jmp target => (labelAddress target whole 0).map fun t => [.jmp t]

/-- The statements of a part of a host program, one after the other. -/
def assembleFrom (whole : List AsmStmt) : List AsmStmt → Option (List HostStmt)
  | [] => some []
  | s :: ss =>
    match s.expand whole, assembleFrom whole ss with
    | some p, some ps => some (p ++ ps)
    | _, _ => none

/-- A whole host program (R126). -/
def assemble (prog : List AsmStmt) : Option (List HostStmt) := assembleFrom prog prog

/-- `s` with a host program about to run (R126). -/
def State.loadProgram (prog : List HostStmt) (s : State) : State := { s with host.prog := prog, host.pc := 0 }

/-- The writes of one byte-string operand (R127).  R127 gives a string of 2^32 bytes or more no length to write; here it is the
length modulo 2^32 (DESIGN CHOICE, notes/assumptions/5.md). -/
def writeOperand (len : Reg) (f : Buf) (bs : Bytes) : List AsmStmt :=
  [.wr len (BitVec.ofNat 32 bs.length), .wrb f bs]

/-- The writes of an optional operand: none where it is omitted (R127). -/
def writeOptional (len : Reg) (f : Buf) : Opt → List AsmStmt
  | none => []
  | some bs => writeOperand len f bs

/-- The write of an optional ARG (R127). -/
def writeArg : Option Word → List AsmStmt
  | none => []
  | some m => [.wr .arg m]

/-- `instantiate <e>, <n> [, pers=<p>] [, minent=<m>] [, var=<v>]` (R127). -/
def asmInstantiate (e n : Bytes) (pers : Opt) (minent : Option Word) (var : Option VarName) : List AsmStmt :=
  writeOperand .len0 .in0 e ++ writeOperand .len1 .in1 n ++ writeOptional .len2 .in2 pers ++ writeArg minent
    ++ [.cmd (.inst var pers.isSome minent.isSome), .wait]

/-- `generate <count> [, add=<a>]` (R127). -/
def asmGenerate (count : Word) (add : Opt) : List AsmStmt :=
  [.wr .arg count] ++ writeOptional .len0 .in0 add ++ [.cmd (.gen add.isSome), .wait]

/-- `generate_with_state <count> [, add=<a>]` (R127). -/
def asmGenerateWithState (count : Word) (add : Opt) : List AsmStmt :=
  [.wr .arg count] ++ writeOptional .len0 .in0 add ++ [.cmd (.gens add.isSome), .wait]

/-- `reseed <e> [, add=<a>]` (R127). -/
def asmReseed (e : Bytes) (add : Opt) : List AsmStmt :=
  writeOperand .len0 .in0 e ++ writeOptional .len1 .in1 add ++ [.cmd .rsd, .wait]

/-- `read_state` (R127). -/
def asmReadState : List AsmStmt := [.cmd .rdst, .wait]

/-- `wipe` (R127). -/
def asmWipe : List AsmStmt := [.cmd .zero, .wait]

end Sys2Proof.Machine
end

