-- ==== Sys2Proof/Safety.lean ====
section
/-! DEFINITION. The terms the statements use: the algorithm as pure functions of a provider, the opcode table's rows, the
invariant of the machine, and what a safe host program does. -/

namespace Sys2Proof

/-! ### The algorithm over any provider `H key message` -/

/-- `ceil(a / b)` (R12). -/
def ceilDiv (a b : Nat) : Nat := (a + b - 1) / b

/-- The pure `update` of R140. -/
def Drbg.update (H : Bytes → Bytes → Bytes) (k v : Bytes) (d : Opt) : Bytes × Bytes :=
  let k1 := H k (v ++ [0x00] ++ orEmpty d)
  let v1 := H k1 v
  match d with
  | none => (k1, v1)
  | some s =>
    let k2 := H k1 (v1 ++ [0x01] ++ s)
    (k2, H k2 v1)

/-- The (key, message) pairs of the provider calls of `update`, in order (R141, R142, R144, R146). -/
def Drbg.updateCalls (H : Bytes → Bytes → Bytes) (k v : Bytes) (d : Opt) : List (Bytes × Bytes) :=
  let k1 := H k (v ++ [0x00] ++ orEmpty d)
  let v1 := H k1 v
  [(k, v ++ [0x00] ++ orEmpty d), (k1, v)] ++
    match d with
    | none => []
    | some s => [(k1, v1 ++ [0x01] ++ s), (H k1 (v1 ++ [0x01] ++ s), v1)]

/-- `V_i`: V after `i` passes of the generate loop (R214). -/
def Drbg.chainValue (H : Bytes → Bytes → Bytes) (k v : Bytes) : Nat → Bytes
  | 0 => v
  | i + 1 => H k (Drbg.chainValue H k v i)

/-- `V_1 ‖ … ‖ V_b` (R214). -/
def Drbg.blocks (H : Bytes → Bytes → Bytes) (k v : Bytes) (b : Nat) : Bytes :=
  (List.range b).flatMap fun i => Drbg.chainValue H k v (i + 1)

/-- K and V after step 1 of generate (R213). -/
def Drbg.preUpdate (H : Bytes → Bytes → Bytes) (k v : Bytes) (a : Opt) : Bytes × Bytes :=
  match a with
  | none => (k, v)
  | some _ => Drbg.update H k v a

/-- The output of generate: `take(n, V_1 ‖ … ‖ V_b)` with `b = ceil(n / DL)` (R214). -/
def Drbg.output (H : Bytes → Bytes → Bytes) (dl : Nat) (k v : Bytes) (a : Opt) (n : Nat) : Bytes :=
  let p := Drbg.preUpdate H k v a
  (Drbg.blocks H p.1 p.2 (ceilDiv n dl)).take n

/-- K and V after generate (R213 to R215). -/
def Drbg.after (H : Bytes → Bytes → Bytes) (dl : Nat) (k v : Bytes) (a : Opt) (n : Nat) : Bytes × Bytes :=
  let p := Drbg.preUpdate H k v a
  Drbg.update H p.1 (Drbg.chainValue H p.1 p.2 (ceilDiv n dl)) a

/-- The (key, message) pairs of the provider calls of generate, in order (R154): step 1, one call a block, step 4. -/
def Drbg.generateCalls (H : Bytes → Bytes → Bytes) (dl : Nat) (k v : Bytes) (a : Opt) (n : Nat) : List (Bytes × Bytes) :=
  let p := Drbg.preUpdate H k v a
  (match a with
    | none => []
    | some _ => Drbg.updateCalls H k v a)
  ++ ((List.range (ceilDiv n dl)).map fun i => (p.1, Drbg.chainValue H p.1 p.2 i))
  ++ Drbg.updateCalls H p.1 (Drbg.chainValue H p.1 p.2 (ceilDiv n dl)) a

/-! ### The opcode table -/

/-- A row of R116: match, mask, and whether it needs DEBUG_ACCESS (R121). -/
structure TableRow where
  pattern    : Word
  mask       : Word
  needsDebug : Bool
  deriving DecidableEq, Repr

/-- The seven rows of R116 in the table's order. -/
def tableRows : List TableRow :=
  [ { pattern := 0x00000000, mask := 0xFFFFFFFF, needsDebug := false },
    { pattern := 0x00000001, mask := 0xFFFFFF0F, needsDebug := false },
    { pattern := 0x00000002, mask := 0xFFFFFFEF, needsDebug := false },
    { pattern := 0x00000003, mask := 0xFFFFFFFF, needsDebug := false },
    { pattern := 0x00000004, mask := 0xFFFFFFEF, needsDebug := true },
    { pattern := 0x00000005, mask := 0xFFFFFFFF, needsDebug := true },
    { pattern := 0x00000006, mask := 0xFFFFFFFF, needsDebug := false } ]

/-- A word selects a row when `w AND mask = match` (R116). -/
def TableRow.selects (r : TableRow) (w : Word) : Bool := w &&& r.mask == r.pattern

/-- The row of a command. -/
def Instr.row : Instr → TableRow
  | .nop => { pattern := 0x00000000, mask := 0xFFFFFFFF, needsDebug := false }
  | .inst _ _ _ => { pattern := 0x00000001, mask := 0xFFFFFF0F, needsDebug := false }
  | .gen _ => { pattern := 0x00000002, mask := 0xFFFFFFEF, needsDebug := false }
  | .rsd => { pattern := 0x00000003, mask := 0xFFFFFFFF, needsDebug := false }
  | .gens _ => { pattern := 0x00000004, mask := 0xFFFFFFEF, needsDebug := true }
  | .rdst => { pattern := 0x00000005, mask := 0xFFFFFFFF, needsDebug := true }
  | .zero => { pattern := 0x00000006, mask := 0xFFFFFFFF, needsDebug := false }

namespace Machine

open Host

/-- The provider of a variant in a build, as the pure functions take it (R145). -/
def providerOf (b : Config.Build) (var : BitVec 2) (key message : Bytes) : Bytes :=
  providerDigest var (b.digestLen var) key message

/-- The provider's event for a key and a message (R151). -/
def providerEvent (b : Config.Build) (var : BitVec 2) (call : Bytes × Bytes) : ProviderCall where
  variant := var
  key := call.1
  message := call.2
  digest := providerOf b var call.1 call.2

/-! ### What a completion leaves -/

/-- `t` is a completion with outcome `code` of a command that ran from `s` (R262), and what no command ever changes. -/
structure Completed (s t : State) (code : ErrKind) : Prop where
  err : t.win.err = code
  done : t.win.done = true
  idle : t.seq.phase = .idle
  operands : t.win.arg = 0 ∧ t.win.len0 = 0 ∧ t.win.len1 = 0 ∧ t.win.len2 = 0
  inputs : ∀ a, inputByte s.build a = true → t.win.mem.read a = 0
  hidden : t.seq.tbuf = [] ∧ t.seq.udata = none ∧ t.seq.adata = none ∧ t.seq.nreq = 0 ∧ t.seq.outcome = .ok
  lcmd : t.seq.lcmd = s.seq.lcmd
  build : t.build = s.build
  host : t.host = s.host
  draws : t.draws = s.draws

/-- The output and debug registers, and every byte of the window that is no operand byte, read in `t` as in `s`. -/
structure OutputsKept (s t : State) : Prop where
  outLen : t.win.outLen = s.win.outLen
  dbgCntLo : t.win.dbgCntLo = s.win.dbgCntLo
  dbgCntHi : t.win.dbgCntHi = s.win.dbgCntHi
  bytes : ∀ a, inputByte s.build a = false → t.win.mem.read a = s.win.mem.read a

/-- The command of `s` ended in the error `e`: completion, and nothing else (R15, R264, R300). -/
structure Raised (s t : State) (e : ErrKind) : Prop where
  completed : Completed s t e
  outputs : OutputsKept s t
  gen : t.gen = s.gen
  trace : t.trace = s.trace
  uret : t.seq.uret = s.seq.uret

/-- The effects GEN and GENS share (R213 to R217): K, V, CNT, OUT, OUTLEN and the provider calls of `n = ARG` bytes with
additional input `a`. -/
structure GenerateEffect (s t : State) (a : Opt) : Prop where
  state : (t.gen.k, t.gen.v) = Drbg.after (providerOf s.build s.gen.variant) (s.build.digestLen s.gen.variant)
    s.gen.k s.gen.v a s.win.arg.toNat
  cnt : t.gen.cnt = s.gen.cnt - 1
  kept : t.gen.inst = s.gen.inst ∧ t.gen.variant = s.gen.variant ∧ t.gen.minEnt = s.gen.minEnt
  outLen : t.win.outLen = s.win.arg
  output : ∀ j, j < s.win.arg.toNat → (Drbg.output (providerOf s.build s.gen.variant) (s.build.digestLen s.gen.variant)
    s.gen.k s.gen.v a s.win.arg.toNat)[j]? = some (t.win.mem.read (Buf.out.offset + j))
  trace : t.trace = s.trace ++ (Drbg.generateCalls (providerOf s.build s.gen.variant) (s.build.digestLen s.gen.variant)
    s.gen.k s.gen.v a s.win.arg.toNat).map (providerEvent s.build s.gen.variant)
  dbgCnt : t.win.dbgCntLo = s.win.dbgCntLo ∧ t.win.dbgCntHi = s.win.dbgCntHi
  uret : t.seq.uret = .genPost

/-- `ret(URET)` of R150. -/
def updateReturn : URet → Phase
  | .instSeed => .complete
  | .genPre => .genBlock
  | .genPost => .cntOp
  | .rsdSeed => .cntOp

/-- The phase made one provider call on `m`, keyed with K under VARIANT, and nothing else but its digest's write into `g`, the
phases' own writes `q` being given (R150, R151). -/
structure Called (s t : State) (m : Bytes) (g : Gen) (q : Sequencer) : Prop where
  trace : t.trace = s.trace ++ [providerEvent s.build s.gen.variant (s.gen.k, m)]
  gen : t.gen = g
  seq : t.seq = q
  win : t.win = s.win

/-- `K <- HMAC(K, m)`, then the phase `p` (R150). -/
def KeyPhase (s t : State) (m : Bytes) (p : Phase) : Prop :=
  Called s t m { s.gen with k := providerOf s.build s.gen.variant s.gen.k m } { s.seq with phase := p }

/-- `V <- HMAC(K, V)`, then the phase `p` (R150). -/
def ValuePhase (s t : State) (p : Phase) : Prop :=
  Called s t s.gen.v { s.gen with v := providerOf s.build s.gen.variant s.gen.k s.gen.v } { s.seq with phase := p }

/-- CHECK left the hidden state `q`, and the generator state and window as they were (R153). -/
structure CheckLeft (s t : State) (q : Sequencer) : Prop where
  seq : t.seq = q
  gen : t.gen = s.gen
  win : t.win = s.win

/-- The hidden state with which CHECK goes to COMPLETE with an outcome (R153, log entry 6). -/
def Sequencer.completing (q : Sequencer) (code : ErrKind) : Sequencer := { q with phase := .complete, outcome := code }

/-- The hidden state with which CHECK enters the update engine (R150). -/
def Sequencer.updating (q : Sequencer) (ret : URet) (d : Opt) : Sequencer :=
  { q with phase := .updK0, uret := ret, udata := d }

/-- The hidden state with which CHECK starts a GEN or GENS of `n` bytes (R153): NREQ, ADATA and an empty TBUF latched (log entry
13), then UPD_K0 for GEN_PRE with additional input, else GEN_BLOCK. -/
def Sequencer.generating (q : Sequencer) (n : Word) (a : Opt) : Sequencer :=
  let latched := { q with nreq := n, adata := a, tbuf := [] }
  if a.isSome then latched.updating .genPre a else { latched with phase := .genBlock }

/-- DBG_K and DBG_V hold the K and V of `g`, `dl` bytes each (R225, R268). -/
structure ShowsKV (t : State) (g : Gen) (dl : Nat) : Prop where
  dbgK : ∀ j, j < dl → g.k[j]? = some (t.win.mem.read (Buf.dbgK.offset + j))
  dbgV : ∀ j, j < dl → g.v[j]? = some (t.win.mem.read (Buf.dbgV.offset + j))

/-- The offset is one of the `n` bytes from the start of a buffer. -/
def Buf.firstBytes (f : Buf) (n off : Nat) : Bool := f.offset ≤ off && off < f.offset + n

/-- What the statements about one command ask of a state: a legal build, an attached variant, K and V of its length, memory
in canonical form.  Every state with `Inv` has it. -/
structure Sound (s : State) : Prop where
  build_wf : s.build.wf = true
  attached : (s.build.variantInfo s.gen.variant).isSome = true
  k_length : s.gen.k.length = s.build.digestLen s.gen.variant
  v_length : s.gen.v.length = s.build.digestLen s.gen.variant
  mem_wf : s.win.mem.wf = true

/-- The conditions under which GEN and GENS execute normally (R211). -/
structure GenReady (s : State) (add : Bool) : Prop where
  inst : s.gen.inst = true
  arg_pos : s.win.arg ≠ 0
  arg_le : s.win.arg.toNat ≤ s.build.maxOutLen
  add_fits : add = true → s.win.len0.toNat ≤ s.build.maxInLen
  cnt : s.gen.cnt ≠ 0

/-! ### The invariant -/

/-- A phase of the update engine. -/
def Phase.isUpdate : Phase → Bool
  | .updK0 => true
  | .updV0 => true
  | .updK1 => true
  | .updV1 => true
  | .idle => false
  | .check => false
  | .genBlock => false
  | .genTrunc => false
  | .cntOp => false
  | .complete => false

/-- A GEN or GENS stands between CHECK and GEN_TRUNC: it has neither output nor counted yet. -/
def State.beforeOutput (s : State) : Bool :=
  s.seq.phase == .genBlock || s.seq.phase == .genTrunc || (s.seq.phase.isUpdate && s.seq.uret == .genPre)

/-- A GEN or GENS stands between CHECK and the decrement. -/
def State.beforeDecrement (s : State) : Bool :=
  s.beforeOutput || ((s.seq.phase.isUpdate || s.seq.phase == .cntOp) && s.seq.uret == .genPost)

/-- What every step keeps, from any state that has it, at either grain. -/
structure Inv (s : State) : Prop where
  /-- The build parameters obey R5 to R7. -/
  build_wf : s.build.wf = true
  /-- The instance's variant is attached (R193). -/
  attached : (s.build.variantInfo s.gen.variant).isSome = true
  /-- `len(K) = DL(VARIANT)` at all times (R31). -/
  k_length : s.gen.k.length = s.build.digestLen s.gen.variant
  /-- `len(V) = DL(VARIANT)` at all times (R31). -/
  v_length : s.gen.v.length = s.build.digestLen s.gen.variant
  /-- CNT is always in 0 .. RI (R170). -/
  cnt_le : s.gen.cnt ≤ s.build.ri
  /-- While INST = 0 the generator state is the reset state (R35). -/
  uninstantiated : s.gen.inst = false → s.gen = Gen.reset
  /-- The window's bytes are in canonical form. -/
  mem_wf : s.win.mem.wf = true
  /-- Only bytes of buffers hold anything (R85). -/
  mem_holds : ∀ c ∈ s.win.mem, bufferByte s.build c.1 = true
  /-- OUTLEN is at most MAX_OUT_LEN (R212). -/
  outLen_le : s.win.outLen.toNat ≤ s.build.maxOutLen
  /-- Bytes OUT[OUTLEN ..] are 0x00 (R48). -/
  out_tail : ∀ i, s.win.outLen.toNat ≤ i → s.win.mem.read (Buf.out.offset + i) = 0
  /-- BUSY and DONE are never both 1 (R43). -/
  done_idle : s.win.done = true → s.busy = false
  /-- ERR is 0 while BUSY (R43). -/
  err_idle : s.busy = true → s.win.err = .ok
  /-- Nothing of a command's data outlives it (R58, R262). -/
  idle_clear : s.busy = false → s.seq.tbuf = [] ∧ s.seq.udata = none ∧ s.seq.adata = none ∧ s.seq.nreq = 0
  /-- Without DEBUG_ACCESS the debug registers always read 0 (R51). -/
  debug_hidden : s.build.debugAccess = false → s.win.dbgCntLo = 0 ∧ s.win.dbgCntHi = 0 ∧
    ∀ a, (Buf.dbgK.holds s.build a = true ∨ Buf.dbgV.holds s.build a = true) → s.win.mem.read a = 0
  /-- TBUF is empty before generation begins. -/
  check_clear : s.seq.phase = .check → s.seq.tbuf = []
  /-- TBUF is a multiple of DL(VARIANT) long (R58). -/
  tbuf_blocks : s.build.digestLen s.gen.variant ∣ s.seq.tbuf.length
  /-- TBUF is at most MAX_OUT_LEN + DL(VARIANT) - 1 long (R58). -/
  tbuf_le : s.seq.tbuf.length ≤ s.build.maxOutLen + s.build.digestLen s.gen.variant - 1
  /-- An update, a generation or a counter operation runs on an instance (R310). -/
  running : (s.seq.phase.isUpdate = true ∨ s.seq.phase = .genBlock ∨ s.seq.phase = .genTrunc ∨ s.seq.phase = .cntOp) →
    s.gen.inst = true
  /-- The decrement never wraps (R172, R173). -/
  cnt_pos : s.beforeDecrement = true → s.gen.cnt ≠ 0
  /-- The latched request is legal until it is served (R212). -/
  request : s.beforeOutput = true → s.seq.nreq ≠ 0 ∧ s.seq.nreq.toNat ≤ s.build.maxOutLen
  /-- A block is generated only while TBUF is too short (R153). -/
  short : (s.seq.phase = .genBlock ∨ (s.seq.phase.isUpdate = true ∧ s.seq.uret = .genPre)) →
    s.seq.tbuf.length < s.seq.nreq.toNat
  /-- OUT holds nothing before GEN_TRUNC (R48, R261). -/
  no_output : (s.seq.phase = .check ∨ s.beforeOutput = true) → s.win.outLen = 0

/-! ### Runs -/

/-- The step goes on: no fault and no refusal. -/
def goesOn (o : Outcome State Fault Refusal) : Prop := ∃ t, o = .next t

/-- `k` steps of the sequencer. -/
def seqRun : Nat → State → State
  | 0, s => s
  | k + 1, s => seqRun k (seqStep s)

/-- The host's next statement is `st`, it is the host's move, and no command runs (R354). -/
structure HostReady (s : State) (st : HostStmt) : Prop where
  no_turns : s.host.turns = []
  idle : s.busy = false
  at_pc : s.host.prog[s.host.pc]? = some st

/-- Generate commands between reloads of the counter (R177): `GenerateRun k s t` says that `t` comes from `s` by `k`
successful GEN or GENS and any number of changes that leave the generator state and the build alone, such as the host's
operand writes. -/
inductive GenerateRun : Nat → State → State → Prop where
  | start (s : State) : GenerateRun 0 s s
  | idle (k : Nat) (s t u : State) : GenerateRun k s t → u.gen = t.gen → u.build = t.build → GenerateRun k s u
  | gen (k : Nat) (s t u : State) (add : Bool) :
      GenerateRun k s t → exec (.gen add) t = .next u → u.win.err = .ok → GenerateRun (k + 1) s u
  | gens (k : Nat) (s t u : State) (add : Bool) :
      GenerateRun k s t → exec (.gens add) t = .next u → u.win.err = .ok → GenerateRun (k + 1) s u

end Machine

end Sys2Proof
end

