-- ==== Sys2Proof/Certificates/Slice0/Obligations.lean ====
section
/-! DEFINITION. What the provers are asked to prove of the model.  Each docstring names the rules of spec/ a statement
formalises. -/

open Host Sys2Proof Sys2Proof.Machine

/-! ### Encoding -/

/-- R116, R120, R121: a word decodes to a command exactly when the command is legal in the build and the word is its
encoding; so every legal word has one meaning, and no bit of an encoding is dropped. -/
def Obligations.DecodeExactlyTheEncodings : Prop :=
  ∀ (debug : Bool) (w : Word) (i : Instr), decode debug w = .ok i ↔ i.wellFormed debug = true ∧ encode i = w

/-- R116, R120: "A word is legal exactly when it matches a row of rule R116 and, for GENS and RDST, DEBUG_ACCESS is true",
and "The rows are disjoint". -/
def Obligations.LegalWordsMatchTheTable : Prop :=
  (∀ (debug : Bool) (w : Word), (∃ i, decode debug w = .ok i) ↔
    ∃ r ∈ tableRows, r.selects w = true ∧ (r.needsDebug = true → debug = true)) ∧
  ∀ (w : Word) (r r' : TableRow), r ∈ tableRows → r' ∈ tableRows → r.selects w = true → r'.selects w = true → r = r'

/-- Words of 95_test_vectors.md section 2.9 and 30_encoding.md rule R125. -/
def Obligations.SpecWordsDecode : Prop :=
  decode true 0x00000000 = .ok .nop ∧ decode true 0x00000031 = .ok (.inst true true 0) ∧
  decode true 0x00000061 = .ok (.inst false true 1) ∧ decode true 0x000000C1 = .ok (.inst false false 3) ∧
  decode true 0x00000012 = .ok (.gen true) ∧ decode true 0x00000003 = .ok .rsd ∧
  decode true 0x00000014 = .ok (.gens true) ∧ decode true 0x00000005 = .ok .rdst ∧
  decode false 0x00000006 = .ok .zero ∧ decode false 0x00000004 = .error .debugDisabled ∧
  decode true 0x80000002 = .error .reservedBits ∧ decode true 0x00000013 = .error .unusedField ∧
  decode true 0x00000007 = .error .unassignedOpcode

/-- R125: every spelling assembles to one word, which decodes to the command it stands for. -/
def Obligations.AssembledWordsDecode : Prop :=
  ∀ c : AsmCmd, encode c.instr = c.word ∧ decode true c.word = .ok c.instr

/-! ### Steps -/

/-- R260, R263: a step in which the host writes a legal word to CMD is the command's own meaning at the issued state; at micro
grain (R153) it is the issue alone.  The step adds the host's move to its next statement and nothing else.  That the host moves
where no turn is listed and no command runs is the model's choice (log entry 4). -/
def Obligations.StepRunsTheDecodedCommand : Prop :=
  ∀ (s : State) (w : Word), HostReady s (.write Reg.cmd.offset .word w) →
    (s.host.grain = .command → ∀ i, decode s.build.debugAccess w = .ok i → step s = exec i (s.hostAdvance.issue w)) ∧
    (s.host.grain = .micro → step s = .next (s.hostAdvance.issue w))

/-- R305: an illegal word completes with IllegalCommand; nothing but ISSUE and COMPLETE effects happen. -/
def Obligations.IllegalWordCompletes : Prop :=
  ∀ (s : State) (w : Word) (e : DecodeError), HostReady s (.write Reg.cmd.offset .word w) → s.host.grain = .command →
    decode s.build.debugAccess w = .error e →
    ∃ t, step s = .next t ∧ Raised (s.hostAdvance.issue w) t .illegalCommand ∧ t.gen = s.gen

/-- The host places a word, and the very next step runs it (log entry 5: a program is placed from outside). -/
def Obligations.PlacedWordRunsNext : Prop :=
  ∀ (s : State) (nbits w : Nat) (i : Instr), nbits ≤ 32 → w < 2 ^ nbits →
    decode s.build.debugAccess (BitVec.ofNat 32 w) = .ok i →
    step (s.withFetchWord nbits w) = exec i ((s.withFetchWord nbits w).hostAdvance.issue (BitVec.ofNat 32 w))

/-- R261: the effects of ISSUE, seen in the step that issues at micro grain, and everything it keeps.  That the model's own
`outcome` is set back with the issue is log entry 6. -/
def Obligations.IssueClearsOutputs : Prop :=
  ∀ (s : State) (w : Word), HostReady s (.write Reg.cmd.offset .word w) → s.host.grain = .micro →
    ∃ t, step s = .next t ∧ t.busy = true ∧ t.seq = { s.seq with phase := .check, lcmd := w, outcome := .ok } ∧
      t.win.done = false ∧ t.win.err = .ok ∧
      t.win.outLen = 0 ∧ t.win.dbgCntLo = 0 ∧ t.win.dbgCntHi = 0 ∧
      (∀ a, outputByte s.build a = true → t.win.mem.read a = 0) ∧
      (∀ a, outputByte s.build a = false → t.win.mem.read a = s.win.mem.read a) ∧
      t.gen = s.gen ∧ t.trace = s.trace ∧ t.build = s.build ∧ t.draws = s.draws ∧
      t.host = { s.host with pc := s.host.pc + 1 } ∧ t.win.arg = s.win.arg ∧ t.win.len0 = s.win.len0 ∧ t.win.len1 = s.win.len1 ∧ t.win.len2 = s.win.len2

/-- R262: every command, successful or not, ends with the completion effects. -/
def Obligations.EveryCommandCompletes : Prop :=
  ∀ (i : Instr) (s : State), ∃ t, exec i s = .next t ∧ Completed s t t.win.err

/-- R300, R317: the block never halts: whatever word the idle host writes to CMD, the step answers a next state in which the
block is idle and DONE is 1. -/
def Obligations.EveryWordLeavesTheBlockReady : Prop :=
  ∀ (s : State) (w : Word), HostReady s (.write Reg.cmd.offset .word w) → s.host.grain = .command →
    ∃ t, step s = .next t ∧ t.busy = false ∧ t.win.done = true ∧ t.host.pc = s.host.pc + 1

/-! ### The update engine -/

/-- R140 to R144, R146: UPDATE(d) leaves the K and V of the pure function, makes its 2 or 4 provider calls in order, and
changes nothing else but its own data operand and return.  The record of calls is the model's (log entry 7). -/
def Obligations.UpdateFollowsThePureFunction : Prop :=
  ∀ (s : State) (ret : URet) (d : Opt),
    ((s.update ret d).gen.k, (s.update ret d).gen.v) = Drbg.update (providerOf s.build s.gen.variant) s.gen.k s.gen.v d ∧
    (s.update ret d).trace = s.trace ++
      (Drbg.updateCalls (providerOf s.build s.gen.variant) s.gen.k s.gen.v d).map (providerEvent s.build s.gen.variant) ∧
    (Drbg.updateCalls (providerOf s.build s.gen.variant) s.gen.k s.gen.v d).length = (if d.isSome then 4 else 2) ∧
    (s.update ret d).gen.inst = s.gen.inst ∧ (s.update ret d).gen.variant = s.gen.variant ∧
    (s.update ret d).gen.minEnt = s.gen.minEnt ∧ (s.update ret d).gen.cnt = s.gen.cnt ∧
    (s.update ret d).win = s.win ∧ (s.update ret d).build = s.build ∧ (s.update ret d).host = s.host ∧
    (s.update ret d).draws = s.draws ∧
    (s.update ret d).seq = { s.seq with udata := d, uret := ret }

/-- R147: the machine's UPDATE(present([])) makes the calls of its UPDATE(absent), so that both reach one (K1, V1), and then
runs steps 4 and 5 from there: K keyed with K1 on V1 ‖ 0x01, then V keyed with that K on V1.  The record of calls is the
model's (log entry 7). -/
def Obligations.UpdateOfEmptyExtendsAbsent : Prop :=
  ∀ (s : State) (ret : URet),
    (s.update ret (some [])).gen.k =
      providerOf s.build s.gen.variant (s.update ret none).gen.k ((s.update ret none).gen.v ++ [0x01]) ∧
    (s.update ret (some [])).gen.v =
      providerOf s.build s.gen.variant (s.update ret (some [])).gen.k (s.update ret none).gen.v ∧
    (s.update ret (some [])).trace = (s.update ret none).trace ++
      [providerEvent s.build s.gen.variant ((s.update ret none).gen.k, (s.update ret none).gen.v ++ [0x01]),
       providerEvent s.build s.gen.variant ((s.update ret (some [])).gen.k, (s.update ret none).gen.v)]

/-! ### NOP, RDST, ZERO -/

/-- R265: NOP completes with OK from every state, with no effect of its own. -/
def Obligations.NopOnlyCompletes : Prop :=
  ∀ s : State, ∃ t, exec .nop s = .next t ∧ Raised s t .ok

/-- R268: RDST copies K, V and CNT to the debug registers and changes no generator state. -/
def Obligations.RdstShowsTheState : Prop :=
  ∀ s : State, Sound s → s.build.debugAccess = true →
    ∃ t, exec .rdst s = .next t ∧ Completed s t .ok ∧ t.gen = s.gen ∧ t.trace = s.trace ∧
      ShowsKV t s.gen (s.build.digestLen s.gen.variant) ∧
      t.win.dbgCntLo.toNat = s.gen.cnt.toNat % 2 ^ 32 ∧ t.win.dbgCntHi.toNat = s.gen.cnt.toNat / 2 ^ 32 ∧
      t.win.outLen = s.win.outLen ∧ t.seq.uret = s.seq.uret ∧
      ∀ a, inputByte s.build a = false → Buf.dbgK.firstBytes (s.build.digestLen s.gen.variant) a = false →
        Buf.dbgV.firstBytes (s.build.digestLen s.gen.variant) a = false → t.win.mem.read a = s.win.mem.read a

/-- R272: ZERO leaves the reset generator state, every physical byte of K and V 0x00, and nothing else but its completion. -/
def Obligations.ZeroWipesTheInstance : Prop :=
  ∀ s : State, ∃ t, exec .zero s = .next t ∧ Completed s t .ok ∧ OutputsKept s t ∧
    t.gen.inst = false ∧ t.gen.variant = 0 ∧ t.gen.minEnt = 0 ∧ t.gen.cnt = 0 ∧
    t.gen.k = List.replicate 32 0 ∧ t.gen.v = List.replicate 32 0 ∧
    t.gen.kRegister = List.replicate 64 0 ∧ t.gen.vRegister = List.replicate 64 0 ∧
    t.trace = s.trace ∧ t.seq.uret = s.seq.uret

/-- R121, R225, R268: where DEBUG_ACCESS is false, GENS and RDST have no word, and their meanings complete with
IllegalCommand. -/
def Obligations.DebugCommandsNeedDebugAccess : Prop :=
  (∀ (w : Word) (add : Bool), decode false w ≠ .ok (.gens add) ∧ decode false w ≠ .ok .rdst) ∧
  ∀ (s : State) (add : Bool), s.build.debugAccess = false →
    (∃ t, exec (.gens add) s = .next t ∧ Raised s t .illegalCommand) ∧
    (∃ t, exec .rdst s = .next t ∧ Raised s t .illegalCommand)

/-! ### INST -/

/-- R190, R193 to R197: an INST that passes its checks.  That URET is INST_SEED after it is R153's phase sequence, and that it
stays so after completion is the model's choice (log entry 12). -/
def Obligations.InstCreatesTheInstance : Prop :=
  ∀ (s : State) (pers override : Bool) (var : BitVec 2) (info : Config.VariantInfo) (m : Word),
    s.win.len0.toNat ≤ s.build.maxInLen → s.win.len1.toNat ≤ s.build.maxInLen →
    (pers = true → s.win.len2.toNat ≤ s.build.maxInLen) →
    s.build.variantInfo var = some info → (if override then some s.win.arg else info.defMin) = some m →
    (s.build.instEntropyCheck = true → m.toNat ≤ s.win.len0.toNat) →
    ∃ t, exec (.inst pers override var) s = .next t ∧ Completed s t .ok ∧ OutputsKept s t ∧
      t.gen.inst = true ∧ t.gen.variant = var ∧ t.gen.minEnt = m ∧ t.gen.cnt = s.build.ri ∧ t.seq.uret = .instSeed ∧
      (t.gen.k, t.gen.v) = Drbg.update (providerOf s.build var) (List.replicate info.dl 0x00) (List.replicate info.dl 0x01)
        (some (s.operand0 ++ s.operand1 ++ if pers then s.operand2 else [])) ∧
      t.trace = s.trace ++ (Drbg.updateCalls (providerOf s.build var) (List.replicate info.dl 0x00)
        (List.replicate info.dl 0x01) (some (s.operand0 ++ s.operand1 ++ if pers then s.operand2 else []))).map
          (providerEvent s.build var)

/-- R190, R193, R194, R199, R310: the errors of INST in their order, each with the generator state unchanged. -/
def Obligations.InstErrorsInOrder : Prop :=
  ∀ (s : State) (pers override : Bool) (var : BitVec 2),
    (s.build.maxInLen < s.win.len0.toNat ∨ s.build.maxInLen < s.win.len1.toNat ∨
        (pers = true ∧ s.build.maxInLen < s.win.len2.toNat) →
      ∃ t, exec (.inst pers override var) s = .next t ∧ Raised s t .invalidLength) ∧
    (s.win.len0.toNat ≤ s.build.maxInLen → s.win.len1.toNat ≤ s.build.maxInLen →
        (pers = true → s.win.len2.toNat ≤ s.build.maxInLen) →
      (s.build.variantInfo var = none →
        ∃ t, exec (.inst pers override var) s = .next t ∧ Raised s t .unsupportedHashVariant) ∧
      ∀ info, s.build.variantInfo var = some info →
        (override = false → info.defMin = none →
          ∃ t, exec (.inst pers override var) s = .next t ∧ Raised s t .unsupportedHashVariant) ∧
        ∀ m, (if override then some s.win.arg else info.defMin) = some m → s.build.instEntropyCheck = true →
          s.win.len0.toNat < m.toNat →
          ∃ t, exec (.inst pers override var) s = .next t ∧ Raised s t .insufficientEntropy)

/-- From R198 and R200: nothing of a previous instance influences the K, V and CNT of a successful INST, and of the operands only
the concatenated seed and the variant do; the minimum entropy the two fix is taken to be one.  Two states of one build that agree in those leave the same generator state. -/
def Obligations.InstDependsOnTheSeedAlone : Prop :=
  ∀ (s s' t t' : State) (pers pers' override override' : Bool) (var : BitVec 2),
    s.build = s'.build →
    exec (.inst pers override var) s = .next t → exec (.inst pers' override' var) s' = .next t' →
    t.win.err = .ok → t'.win.err = .ok → t.gen.minEnt = t'.gen.minEnt →
    s.operand0 ++ s.operand1 ++ (if pers then s.operand2 else []) =
      s'.operand0 ++ s'.operand1 ++ (if pers' then s'.operand2 else []) →
    t.gen = t'.gen

/-! ### GEN and GENS -/

/-- R210 to R217: a GEN that passes its checks; every byte of the window but the operand bytes and OUT[0 .. n-1] is kept.
That URET is GEN_POST after it is R153's phase sequence, and that it stays so after completion is the model's choice (log entry
12). -/
def Obligations.GenProducesTheOutput : Prop :=
  ∀ (s : State) (add : Bool), Sound s → GenReady s add →
    ∃ t, exec (.gen add) s = .next t ∧ Completed s t .ok ∧
      GenerateEffect s t (if add then some s.operand0 else none) ∧
      ∀ a, inputByte s.build a = false → Buf.out.firstBytes s.win.arg.toNat a = false →
        t.win.mem.read a = s.win.mem.read a

/-- R225: a GENS that passes its checks does what GEN does and shows the K and V it leaves.  URET is GEN_POST as for GEN (R153,
log entry 12). -/
def Obligations.GensShowsTheStateAfter : Prop :=
  ∀ (s : State) (add : Bool), Sound s → GenReady s add → s.build.debugAccess = true →
    ∃ t, exec (.gens add) s = .next t ∧ Completed s t .ok ∧
      GenerateEffect s t (if add then some s.operand0 else none) ∧
      ShowsKV t t.gen (s.build.digestLen s.gen.variant) ∧
      ∀ a, inputByte s.build a = false → Buf.out.firstBytes s.win.arg.toNat a = false →
        Buf.dbgK.firstBytes (s.build.digestLen s.gen.variant) a = false →
        Buf.dbgV.firstBytes (s.build.digestLen s.gen.variant) a = false → t.win.mem.read a = s.win.mem.read a

/-- R210, R211, R226, R310: the errors of GEN, and of GENS in a debug build, in their order, each with nothing changed. -/
def Obligations.GenErrorsInOrder : Prop :=
  ∀ (s : State) (add : Bool) (i : Instr), i = .gen add ∨ (i = .gens add ∧ s.build.debugAccess = true) →
    (s.gen.inst = false → ∃ t, exec i s = .next t ∧ Raised s t .notInstantiated) ∧
    (s.gen.inst = true →
      (s.win.arg = 0 ∨ s.build.maxOutLen < s.win.arg.toNat ∨ (add = true ∧ s.build.maxInLen < s.win.len0.toNat) →
        ∃ t, exec i s = .next t ∧ Raised s t .invalidLength) ∧
      (s.win.arg ≠ 0 → s.win.arg.toNat ≤ s.build.maxOutLen → (add = true → s.win.len0.toNat ≤ s.build.maxInLen) →
        s.gen.cnt = 0 → ∃ t, exec i s = .next t ∧ Raised s t .reseedRequired))

/-- R214: byte j of the result is byte j mod DL of the V of pass j / DL + 1, all passes keyed with the K that step 1 left. -/
def Obligations.OutputBytesComeFromTheChain : Prop :=
  ∀ (s : State) (add : Bool) (j : Nat), Sound s → GenReady s add → j < s.win.arg.toNat →
    ∃ t, exec (.gen add) s = .next t ∧
      (Drbg.chainValue (providerOf s.build s.gen.variant)
        (Drbg.preUpdate (providerOf s.build s.gen.variant) s.gen.k s.gen.v (if add then some s.operand0 else none)).1
        (Drbg.preUpdate (providerOf s.build s.gen.variant) s.gen.k s.gen.v (if add then some s.operand0 else none)).2
        (j / s.build.digestLen s.gen.variant + 1))[j % s.build.digestLen s.gen.variant]? =
          some (t.win.mem.read (Buf.out.offset + j))

/-- R219 (a): requests that need the same number of blocks leave the same generator state, and the shorter output is a prefix
of the longer. -/
def Obligations.EqualBlockCountsGiveEqualState : Prop :=
  ∀ (s : State) (add : Bool) (n n' : Word), Sound s →
    GenReady { s with win.arg := n } add → GenReady { s with win.arg := n' } add → n.toNat ≤ n'.toNat →
    ceilDiv n.toNat (s.build.digestLen s.gen.variant) = ceilDiv n'.toNat (s.build.digestLen s.gen.variant) →
    ∃ t t', exec (.gen add) { s with win.arg := n } = .next t ∧ exec (.gen add) { s with win.arg := n' } = .next t' ∧
      t.gen = t'.gen ∧
      ∀ j, j < n.toNat → t.win.mem.read (Buf.out.offset + j) = t'.win.mem.read (Buf.out.offset + j)

/-! ### RSD -/

/-- R240, R243 to R245: an RSD that passes its checks.  That URET is RSD_SEED after it is R153's phase sequence, and that it
stays so after completion is the model's choice (log entry 12). -/
def Obligations.RsdMixesTheSeed : Prop :=
  ∀ s : State, s.gen.inst = true → s.win.len0.toNat ≤ s.build.maxInLen → s.win.len1.toNat ≤ s.build.maxInLen →
    s.gen.minEnt.toNat ≤ s.win.len0.toNat →
    ∃ t, exec .rsd s = .next t ∧ Completed s t .ok ∧ OutputsKept s t ∧
      (t.gen.k, t.gen.v) =
        Drbg.update (providerOf s.build s.gen.variant) s.gen.k s.gen.v (some (s.operand0 ++ s.operand1)) ∧
      t.gen.cnt = s.build.ri ∧ t.seq.uret = .rsdSeed ∧
      t.gen.inst = true ∧ t.gen.variant = s.gen.variant ∧ t.gen.minEnt = s.gen.minEnt ∧
      t.trace = s.trace ++ (Drbg.updateCalls (providerOf s.build s.gen.variant) s.gen.k s.gen.v
        (some (s.operand0 ++ s.operand1))).map (providerEvent s.build s.gen.variant)

/-- R240, R241, R310: the errors of RSD in their order, each with nothing changed. -/
def Obligations.RsdErrorsInOrder : Prop :=
  ∀ s : State,
    (s.gen.inst = false → ∃ t, exec .rsd s = .next t ∧ Raised s t .notInstantiated) ∧
    (s.gen.inst = true →
      (s.build.maxInLen < s.win.len0.toNat ∨ s.build.maxInLen < s.win.len1.toNat →
        ∃ t, exec .rsd s = .next t ∧ Raised s t .invalidLength) ∧
      (s.win.len0.toNat ≤ s.build.maxInLen → s.win.len1.toNat ≤ s.build.maxInLen →
        s.win.len0.toNat < s.gen.minEnt.toNat → ∃ t, exec .rsd s = .next t ∧ Raised s t .insufficientEntropy))

/-! ### Frames and whole-machine rules -/

/-- R15, R264, R300: a command that ends in an error, and a word that is no command, writes no generator state, no output and
no debug register beyond ISSUE's clearing, and calls no provider.  That URET too is kept is the model's choice (log entry
12). -/
def Obligations.FailedCommandsChangeNothing : Prop :=
  (∀ (i : Instr) (s t : State), exec i s = .next t → t.win.err ≠ .ok → Raised s t t.win.err) ∧
  ∀ s t : State, runCommand s = .next t → t.win.err ≠ .ok → Raised s t t.win.err

/-- R32, R33: which command writes which field of the generator state. -/
def Obligations.CommandsWriteOnlyTheirFields : Prop :=
  ∀ (i : Instr) (s t : State), exec i s = .next t →
    match i with
    | .nop => t.gen = s.gen
    | .rdst => t.gen = s.gen
    | .inst _ _ _ => t.gen.cnt = s.build.ri ∨ t.gen = s.gen
    | .gen _ => t.gen = s.gen ∨ (s.gen.cnt ≠ 0 ∧ t.gen.cnt = s.gen.cnt - 1 ∧ t.gen.inst = s.gen.inst ∧
        t.gen.variant = s.gen.variant ∧ t.gen.minEnt = s.gen.minEnt)
    | .gens _ => t.gen = s.gen ∨ (s.gen.cnt ≠ 0 ∧ t.gen.cnt = s.gen.cnt - 1 ∧ t.gen.inst = s.gen.inst ∧
        t.gen.variant = s.gen.variant ∧ t.gen.minEnt = s.gen.minEnt)
    | .rsd => t.gen = s.gen ∨ (t.gen.cnt = s.build.ri ∧ t.gen.inst = s.gen.inst ∧
        t.gen.variant = s.gen.variant ∧ t.gen.minEnt = s.gen.minEnt)
    | .zero => t.gen = Gen.reset

/-- R48 to R50: the output registers each command leaves alone, whatever its outcome.  NOP, INST, RSD and ZERO leave them all;
GEN leaves the debug registers; GENS leaves DBG_CNT; RDST leaves OUT and OUTLEN. -/
def Obligations.CommandsKeepTheOtherOutputs : Prop :=
  ∀ (i : Instr) (s t : State), s.build.wf = true → exec i s = .next t →
    ((∀ add, i ≠ .gen add) → (∀ add, i ≠ .gens add) → t.win.outLen = s.win.outLen ∧
      ∀ a, Buf.out.holds s.build a = true → t.win.mem.read a = s.win.mem.read a) ∧
    ((∀ add, i ≠ .gens add) → i ≠ .rdst →
      ∀ a, Buf.dbgK.holds s.build a = true ∨ Buf.dbgV.holds s.build a = true → t.win.mem.read a = s.win.mem.read a) ∧
    (i ≠ .rdst → t.win.dbgCntLo = s.win.dbgCntLo ∧ t.win.dbgCntHi = s.win.dbgCntHi) ∧
    ∀ a, bufferByte s.build a = false → t.win.mem.read a = s.win.mem.read a

/-- R146, R151, R154: how many provider calls a command makes. -/
def Obligations.ProviderCallCounts : Prop :=
  ∀ (i : Instr) (s t : State), Sound s → exec i s = .next t →
    t.trace.length = s.trace.length +
      (if t.win.err ≠ .ok then 0 else
        match i with
        | .nop => 0
        | .inst _ _ _ => 4
        | .gen add => ceilDiv s.win.arg.toNat (s.build.digestLen s.gen.variant) + (if add then 8 else 2)
        | .rsd => 4
        | .gens add => ceilDiv s.win.arg.toNat (s.build.digestLen s.gen.variant) + (if add then 8 else 2)
        | .rdst => 0
        | .zero => 0)

/-- R33, R173 to R176: in one step of the machine CNT is kept, reloaded, cleared, or decremented from a value that is not 0;
it never wraps. -/
def Obligations.CounterChangesOnlyByTheRules : Prop :=
  ∀ s t : State, Inv s → step s = .next t →
    t.gen.cnt = s.gen.cnt ∨ t.gen.cnt = s.build.ri ∨ t.gen.cnt = 0 ∨
      (s.gen.cnt.toNat = t.gen.cnt.toNat + 1)

/-- R177: k successful generates take exactly k off the counter; when as many have run as the counter held, the next GEN or GENS
fails and leaves the generator state alone, and raises ReseedRequired where the request is legal (an instance, a length in range
and, for GENS, a debug build: R310 checks those first). -/
def Obligations.CounterCountsGenerates : Prop :=
  ∀ (k : Nat) (s t : State), GenerateRun k s t →
    t.gen.cnt.toNat + k = s.gen.cnt.toNat ∧
    (k = s.gen.cnt.toNat → ∀ (add : Bool) (i : Instr), i = .gen add ∨ i = .gens add →
      ∃ u, exec i t = .next u ∧ u.win.err ≠ .ok ∧ u.gen = t.gen ∧
        (t.gen.inst = true → t.win.arg ≠ 0 → t.win.arg.toNat ≤ t.build.maxOutLen →
          (add = true → t.win.len0.toNat ≤ t.build.maxInLen) → (i = .gens add → t.build.debugAccess = true) →
          Raised t u .reseedRequired))

/-- R87, R88, R126: a host statement that is no write to CMD leaves the generator state, the outputs, the debug registers,
STATUS and the provider alone. -/
def Obligations.OnlyCommandsTouchTheGenerator : Prop :=
  ∀ (s t : State) (st : HostStmt), HostReady s st → (∀ w, st ≠ .write Reg.cmd.offset .word w) → step s = .next t →
    t.gen = s.gen ∧ t.trace = s.trace ∧ t.seq = s.seq ∧ t.build = s.build ∧ t.status = s.status ∧
    t.win.outLen = s.win.outLen ∧ t.win.dbgCntLo = s.win.dbgCntLo ∧ t.win.dbgCntHi = s.win.dbgCntHi ∧
    ∀ a, inputByte s.build a = false → t.win.mem.read a = s.win.mem.read a

/-! ### The invariant -/

/-- R31, R35, R43, R48, R51, R58, R85, R170 and R173 as one invariant: every step keeps it, from every state that has it, at
either grain and under every order of moves. -/
def Obligations.InvariantIsKept : Prop := ∀ s t : State, Inv s → step s = .next t → Inv t

/-- The reset state of every legal build has the invariant. -/
def Obligations.InvariantHoldsAtReset : Prop := ∀ b : Config.Build, b.wf = true → Inv (State.resetOf b)

/-! ### The micro-sequence -/

/-- R153, R155: from the issue of any word, the sequencer's phases reach the very state the command-level rule gives, and BUSY
is 1 until then.  That URET and the kept outcome agree too is the model's choice (log entries 6 and 12). -/
def Obligations.MicroSequenceRefinesTheCommand : Prop :=
  ∀ (s : State) (w : Word), Inv s → s.busy = false →
    ∃ (k : Nat) (t : State), runCommand (s.issue w) = .next t ∧ seqRun k (s.issue w) = t ∧ t.busy = false ∧
      ∀ j, j < k → (seqRun j (s.issue w)).busy = true

/-- R150, R153: while a command runs and no other move is listed, a step is one phase of the sequencer: its writes, its one
provider call with key and message or none, and the next phase, for every phase; what CHECK does for each command is the
statement after this one.  That the sequencer then moves is the model's choice (log entry 4), and so are where the outcome of the
checks waits for COMPLETE (log entry 6) and that COMPLETE keeps URET (log entry 12). -/
def Obligations.OneProviderCallAPhase : Prop :=
  ∀ s : State, Inv s → s.host.turns = [] → s.busy = true →
    ∃ t, step s = .next t ∧ t.build = s.build ∧ t.host = s.host ∧ t.draws = s.draws ∧
      match s.seq.phase with
      | .idle => False
      | .check => t.trace = s.trace ∧ t.seq.lcmd = s.seq.lcmd ∧
          (t.seq.phase = .complete ∨ t.seq.phase = .updK0 ∨ t.seq.phase = .genBlock)
      | .updK0 => KeyPhase s t (s.gen.v ++ [0x00] ++ orEmpty s.seq.udata) .updV0
      | .updV0 => ValuePhase s t (if s.seq.udata = none then updateReturn s.seq.uret else .updK1)
      | .updK1 => ∀ d, s.seq.udata = some d → KeyPhase s t (s.gen.v ++ [0x01] ++ d) .updV1
      | .updV1 => ValuePhase s t (updateReturn s.seq.uret)
      | .genBlock => Called s t s.gen.v { s.gen with v := providerOf s.build s.gen.variant s.gen.k s.gen.v }
          { s.seq with
            tbuf := s.seq.tbuf ++ t.gen.v
            phase := if (s.seq.tbuf ++ t.gen.v).length < s.seq.nreq.toNat then .genBlock else .genTrunc }
      | .genTrunc => t.trace = s.trace ∧ t.gen = s.gen ∧
          t.seq = { s.seq with phase := .updK0, uret := .genPost, udata := s.seq.adata } ∧
          t.win = { s.win with outLen := s.seq.nreq, mem := t.win.mem } ∧
          (∀ j b, j < s.seq.nreq.toNat → s.seq.tbuf[j]? = some b → t.win.mem.read (Buf.out.offset + j) = b) ∧
          ∀ a, Buf.out.firstBytes s.seq.nreq.toNat a = false → t.win.mem.read a = s.win.mem.read a
      | .cntOp => t.trace = s.trace ∧ t.win = s.win ∧ t.seq = { s.seq with phase := .complete } ∧
          (s.seq.uret = .genPost → t.gen = { s.gen with cnt := s.gen.cnt - 1 }) ∧
          (s.seq.uret = .rsdSeed → t.gen = { s.gen with cnt := s.build.ri })
      | .complete => t.trace = s.trace ∧ t.gen = s.gen ∧ Completed s t s.seq.outcome ∧ t.seq.uret = s.seq.uret ∧
          t.win.outLen = s.win.outLen ∧ t.win.dbgCntLo = s.win.dbgCntLo ∧ t.win.dbgCntHi = s.win.dbgCntHi ∧
          ((∀ add, decode s.build.debugAccess s.seq.lcmd = .ok (.gens add) → s.seq.outcome ≠ .ok) → OutputsKept s t) ∧
          ∀ add, decode s.build.debugAccess s.seq.lcmd = .ok (.gens add) → s.seq.outcome = .ok →
            ShowsKV t s.gen (s.build.digestLen s.gen.variant) ∧
            ∀ a, inputByte s.build a = false → Buf.dbgK.firstBytes (s.build.digestLen s.gen.variant) a = false →
              Buf.dbgV.firstBytes (s.build.digestLen s.gen.variant) a = false → t.win.mem.read a = s.win.mem.read a

/-- R153, R310: the step in CHECK decodes LCMD and goes straight to COMPLETE, with nothing written, where the word is illegal or
the command's checks fail, that is where its meaning ends in an error; else it does the writes of CHECK's exit and enters the
first phase of the command's row.  The moment at which NREQ and ADATA are latched (log entry 13), the field that keeps the
outcome (log entry 6) and that the sequencer moves where no turn is listed (log entry 4) are the model's choices. -/
def Obligations.CheckStartsTheRowOfTheCommand : Prop :=
  ∀ s : State, Sound s → s.host.turns = [] → s.seq.phase = .check →
    ∃ t, step s = .next t ∧ t.trace = s.trace ∧ t.build = s.build ∧ t.host = s.host ∧ t.draws = s.draws ∧
      match decode s.build.debugAccess s.seq.lcmd with
      | .error _ => CheckLeft s t (s.seq.completing .illegalCommand)
      | .ok i => ∃ u, exec i s = .next u ∧
          (u.win.err ≠ .ok → CheckLeft s t (s.seq.completing u.win.err)) ∧
          (u.win.err = .ok →
            match i with
            | .nop => CheckLeft s t (s.seq.completing .ok)
            | .inst pers _ var => t.win = s.win ∧
                t.seq = s.seq.updating .instSeed
                  (some (s.operand0 ++ s.operand1 ++ if pers then s.operand2 else [])) ∧
                t.gen.inst = true ∧ t.gen.variant = var ∧ t.gen.minEnt = u.gen.minEnt ∧ t.gen.cnt = s.build.ri ∧
                t.gen.k = List.replicate (s.build.digestLen var) 0x00 ∧
                t.gen.v = List.replicate (s.build.digestLen var) 0x01
            | .gen add => CheckLeft s t (s.seq.generating s.win.arg (if add then some s.operand0 else none))
            | .gens add => CheckLeft s t (s.seq.generating s.win.arg (if add then some s.operand0 else none))
            | .rsd => CheckLeft s t (s.seq.updating .rsdSeed (some (s.operand0 ++ s.operand1)))
            | .rdst => t.seq = s.seq.completing .ok ∧ t.gen = s.gen ∧
                ShowsKV t s.gen (s.build.digestLen s.gen.variant) ∧
                t.win.dbgCntLo.toNat = s.gen.cnt.toNat % 2 ^ 32 ∧ t.win.dbgCntHi.toNat = s.gen.cnt.toNat / 2 ^ 32 ∧
                t.win = { s.win with dbgCntLo := t.win.dbgCntLo, dbgCntHi := t.win.dbgCntHi, mem := t.win.mem } ∧
                ∀ a, Buf.dbgK.firstBytes (s.build.digestLen s.gen.variant) a = false →
                  Buf.dbgV.firstBytes (s.build.digestLen s.gen.variant) a = false → t.win.mem.read a = s.win.mem.read a
            | .zero => t.seq = s.seq.completing .ok ∧ t.win = s.win ∧ t.gen = Gen.reset)

/-! ### The register window -/

/-- R43, R301: the fields of STATUS, and the codes of ERR. -/
def Obligations.StatusFields : Prop :=
  ∀ s : State, s.status.getLsbD 0 = s.busy ∧ s.status.getLsbD 1 = s.win.done ∧ s.status.getLsbD 2 = s.gen.inst ∧
    s.status.getLsbD 3 = false ∧ s.status.extractLsb' 4 4 = s.win.err.code ∧
    s.status.extractLsb' 8 2 = s.gen.variant ∧ s.status.extractLsb' 10 22 = 0 ∧ s.win.err.code.toNat ≤ 6 ∧
    (s.busy = true ↔ s.seq.phase ≠ .idle) ∧
    ErrKind.ok.code = 0 ∧ ErrKind.unsupportedHashVariant.code = 1 ∧ ErrKind.reseedRequired.code = 2 ∧
    ErrKind.insufficientEntropy.code = 3 ∧ ErrKind.notInstantiated.code = 4 ∧ ErrKind.invalidLength.code = 5 ∧
    ErrKind.illegalCommand.code = 6

/-- R86: an access that starts in the window is refused where it is no word at a register's offset among the control registers,
and past them where it is misaligned, on buffers and reserved locations alike (93_implementation_defined.md I19).  That an access
past the window, to which R80 gives no address, faults is the model's choice (log entry 10). -/
def Obligations.BadAccessesAreRefused : Prop :=
  ∀ (s : State) (off : Nat) (size : AccessSize) (x : Word),
    (0x11000 ≤ off → busRead off size s = .fault .outsideWindow ∧ busWrite off size x s = .fault .outsideWindow) ∧
    (off < 0x11000 → off % size.bytes ≠ 0 ∨ (off < 0x28 ∧ size ≠ .word) →
      busRead off size s = .refused .badAccess ∧ busWrite off size x s = .refused .badAccess)

/-- R42, R45: ARG and LEN0 to LEN2 hold the full value the host writes; no other register, byte or generator field changes. -/
def Obligations.OperandRegistersHoldTheirValue : Prop :=
  ∀ (s : State) (r : Reg) (x : Word), s.busy = false → r = .arg ∨ r = .len0 ∨ r = .len1 ∨ r = .len2 →
    ∃ t, busWrite r.offset .word x s = .next t ∧ busRead r.offset .word t = .next (x, t) ∧
      (∀ r', r' ≠ r → t.readReg r' = s.readReg r') ∧ t.gen = s.gen ∧ t.win.mem = s.win.mem ∧ t.seq = s.seq ∧
      t.trace = s.trace ∧ t.build = s.build ∧ t.host = s.host ∧ t.draws = s.draws

/-- R82, R84: a write of 1, 2 or 4 bytes to operand bytes puts bits 8i+7:8i at offset a + i, is read back by an access of the
same width, and changes no other byte and no register. -/
def Obligations.OperandBytesHoldTheirLanes : Prop :=
  ∀ (s : State) (off : Nat) (size : AccessSize) (x : Word), Sound s → s.busy = false → off % size.bytes = 0 →
    (∀ i, i < size.bytes → inputByte s.build (off + i) = true) →
    ∃ t, busWrite off size x s = .next t ∧
      busRead off size t = .next (BitVec.ofNat 32 (x.toNat % 2 ^ (8 * size.bytes)), t) ∧
      (∀ i, i < size.bytes → t.win.mem.read (off + i) = x.extractLsb' (8 * i) 8) ∧
      (∀ a, a < off ∨ off + size.bytes ≤ a → t.win.mem.read a = s.win.mem.read a) ∧
      (∀ r, t.readReg r = s.readReg r) ∧ t.win = { s.win with mem := t.win.mem } ∧ t.gen = s.gen ∧ t.seq = s.seq ∧
      t.trace = s.trace ∧ t.build = s.build ∧ t.host = s.host ∧ t.draws = s.draws

/-- R48, R49, R82, R84, R88: while BUSY is 0, a word read of a register gives its value, and an aligned read of buffer bytes,
OUT and the debug buffers among them, gives byte i in bits 8i+7:8i and no bit above; neither changes anything. -/
def Obligations.IdleReadsGiveTheContents : Prop :=
  (∀ (s : State) (r : Reg), s.busy = false →
    busRead r.offset .word s = .next
      (match r with
        | .cmd => 0
        | .arg => s.win.arg
        | .status => s.status
        | .minEnt => s.gen.minEnt
        | .len0 => s.win.len0
        | .len1 => s.win.len1
        | .len2 => s.win.len2
        | .outLen => s.win.outLen
        | .dbgCntLo => s.win.dbgCntLo
        | .dbgCntHi => s.win.dbgCntHi, s)) ∧
  ∀ (s : State) (off : Nat) (size : AccessSize), s.build.wf = true → s.busy = false → off % size.bytes = 0 →
    (∀ i, i < size.bytes → bufferByte s.build (off + i) = true) →
    ∃ x, busRead off size s = .next (x, s) ∧
      (∀ i, i < size.bytes → x.extractLsb' (8 * i) 8 = s.win.mem.read (off + i)) ∧ x.toNat < 2 ^ (8 * size.bytes)

/-- R48, R82, R84, R214: after a GEN that passes its checks, a byte read of OUT[j] gives byte j of the output, and every byte
read of OUT from the requested count on gives 0x00. -/
def Obligations.HostReadsTheOutput : Prop :=
  ∀ (s : State) (add : Bool), Inv s → s.win.outLen = 0 → GenReady s add →
    ∃ t, exec (.gen add) s = .next t ∧ ∀ j, j < s.build.maxOutLen →
      busRead (Buf.out.offset + j) .byte t = .next
        ((((Drbg.output (providerOf s.build s.gen.variant) (s.build.digestLen s.gen.variant) s.gen.k s.gen.v
          (if add then some s.operand0 else none) s.win.arg.toNat)[j]?).getD 0).setWidth 32, t)

/-- R85, R87: a write to a read-only register, a read-only buffer or reserved locations changes nothing, BUSY or not; reserved
locations read 0 while BUSY is 0.  That R85 lets reserved locations accept every aligned access past the control registers is
read from it by inference (log entry 8), and so is that an aligned access over existing and reserved bytes of one buffer goes on
(log entry 9). -/
def Obligations.ReadOnlyAndReservedIgnoreWrites : Prop :=
  (∀ (s : State) (r : Reg) (x : Word), r = .status ∨ r = .minEnt ∨ r = .outLen ∨ r = .dbgCntLo ∨ r = .dbgCntHi →
    busWrite r.offset .word x s = .next s) ∧
  ∀ (s : State) (off : Nat) (size : AccessSize) (x : Word), 0x28 ≤ off → off < 0x11000 → off % size.bytes = 0 →
    ((∀ i, i < size.bytes → inputByte s.build (off + i) = false) → busWrite off size x s = .next s) ∧
    (s.busy = false → (∀ i, i < size.bytes → bufferByte s.build (off + i) = false) → busRead off size s = .next (0, s))

/-- R87, R361: while BUSY is 1, a write to CMD, ARG, LEN0 to LEN2 or an operand byte is refused.  That an aligned access which also
covers reserved bytes is one of these is log entry 9. -/
def Obligations.WritesWhileBusyAreRefused : Prop :=
  ∀ (s : State) (x : Word), s.busy = true →
    (∀ r : Reg, r = .cmd ∨ r = .arg ∨ r = .len0 ∨ r = .len1 ∨ r = .len2 →
      busWrite r.offset .word x s = .refused .writeWhileBusy) ∧
    (∀ (off : Nat) (size : AccessSize), s.build.wf = true → off % size.bytes = 0 →
      (∃ i, i < size.bytes ∧ inputByte s.build (off + i) = true) →
      busWrite off size x s = .refused .writeWhileBusy)

/-- R89: while BUSY is 1, STATUS reads BUSY 1, DONE 0 and ERR 0 exactly; every admitted read gives some value and changes
nothing but the count of draws, which is the model's own (log entry 2).  That reads of reserved bytes are among those admitted is
log entries 8 and 9. -/
def Obligations.ReadsWhileBusy : Prop :=
  ∀ s : State, Inv s → s.busy = true →
    (∃ x, busRead Reg.status.offset .word s = .next (x, { s with draws := s.draws + 1 }) ∧
      x.getLsbD 0 = true ∧ x.getLsbD 1 = false ∧ x.extractLsb' 4 4 = 0) ∧
    (∀ (off : Nat) (size : AccessSize), off < 0x11000 → off % size.bytes = 0 → (off < 0x28 → size = .word) →
      ∃ x, busRead off size s = .next (x, { s with draws := s.draws + 1 }))

/-- R88: no read has a side effect on the block, BUSY or not, and while BUSY is 0 a read gives the same value again.  That a
read while BUSY is 1 counts a draw is the model's own record (log entry 2). -/
def Obligations.ReadsHaveNoSideEffect : Prop :=
  ∀ (s t : State) (off : Nat) (size : AccessSize) (x : Word), busRead off size s = .next (x, t) →
    t = { s with draws := t.draws } ∧ (s.busy = false → t = s ∧ busRead off size t = .next (x, t))

/-- R34, R91: no host read while BUSY is 0 depends on the K, V and CNT registers themselves: two states that differ only in
them give equal reads everywhere in the window (what GENS and RDST copied to DBG_* aside, which is equal in the two). -/
def Obligations.SecretsAreNotReadable : Prop :=
  ∀ (s : State) (k v : Bytes) (c : BitVec 64) (off : Nat) (size : AccessSize) (x : Word), s.busy = false →
    busRead off size s = .next (x, s) →
    busRead off size { s with gen := { s.gen with k := k, v := v, cnt := c } } =
      .next (x, { s with gen := { s.gen with k := k, v := v, cnt := c } })

/-- From R51 and R89: without DEBUG_ACCESS no word is GENS or RDST, and the debug registers read 0 in every state that has the
invariant, while BUSY is 0 (while it is 1 R89 leaves the read open). -/
def Obligations.DebugRegistersReadZeroWithoutAccess : Prop :=
  (∀ (w : Word) (add : Bool), decode false w ≠ .ok (.gens add) ∧ decode false w ≠ .ok .rdst) ∧
  ∀ s : State, Inv s → s.build.debugAccess = false → s.busy = false →
    busRead Reg.dbgCntLo.offset .word s = .next (0, s) ∧ busRead Reg.dbgCntHi.offset .word s = .next (0, s) ∧
    ∀ (off : Nat) (size : AccessSize), 0x700 ≤ off → off + size.bytes ≤ 0x780 → off % size.bytes = 0 →
      busRead off size s = .next (0, s)

/-! ### Reset and the host -/

/-- R60: the value of every piece of state after reset, in every build. -/
def Obligations.ResetValues : Prop :=
  ∀ b : Config.Build, (State.resetOf b).gen.inst = false ∧ (State.resetOf b).gen.variant = 0 ∧
    (State.resetOf b).gen.minEnt = 0 ∧ (State.resetOf b).gen.k = List.replicate 32 0 ∧
    (State.resetOf b).gen.v = List.replicate 32 0 ∧ (State.resetOf b).gen.kRegister = List.replicate 64 0 ∧
    (State.resetOf b).gen.vRegister = List.replicate 64 0 ∧ (State.resetOf b).gen.cnt = 0 ∧
    (∀ r, (State.resetOf b).readReg r = 0) ∧ (∀ a, (State.resetOf b).byteAt a = 0) ∧
    (State.resetOf b).busy = false ∧ (State.resetOf b).win.done = false ∧ (State.resetOf b).win.err = .ok ∧
    (State.resetOf b).seq.phase = .idle ∧ (State.resetOf b).seq.lcmd = 0 ∧ (State.resetOf b).seq.nreq = 0 ∧
    (State.resetOf b).seq.udata = none ∧ (State.resetOf b).seq.adata = none ∧
    (State.resetOf b).seq.uret = .instSeed ∧ (State.resetOf b).seq.tbuf = []

/-- R350, R351: reset takes the block to its reset values from any state, a running command included; DONE stays 0, no
provider call is made, and the build stays.  That the reset input is a listed turn, and what it leaves alone, is the model's
choice (log entries 4 and 11). -/
def Obligations.ResetAbortsACommand : Prop :=
  ∀ (s : State) (ts : List Turn), s.host.turns = .reset :: ts →
    ∃ t, step s = .next t ∧ t.gen = (State.resetOf s.build).gen ∧ t.win = (State.resetOf s.build).win ∧
      t.seq = (State.resetOf s.build).seq ∧ t.win.done = false ∧ t.busy = false ∧ t.build = s.build ∧ t.trace = s.trace

/-- R126: what each statement does where the block is idle and the host moves.  `wr`, `wrb` and `cmd` are the writes of the
window; `rd` and `rdb` record the value of the register or byte; `wait` goes on exactly when STATUS reads DONE 1; `jeq` goes to
its label exactly when the bits it reads equal its value; `jmp` goes to its label.  None changes anything else.  That one poll of
STATUS is a step, that the values read are recorded with the host, and that the bits are 0 where hi is below lo and above bit 31
are the model's choices (log entry 5), as is that the host moves where no turn is listed (log entry 4). -/
def Obligations.HostStatements : Prop :=
  (∀ (s : State) (off : Nat) (size : AccessSize) (x : Word), HostReady s (.write off size x) →
    step s = busWrite off size x { s with host.pc := s.host.pc + 1 }) ∧
  (∀ (s : State) (r : Reg), HostReady s (.read r.offset .word) →
    step s = .next { s with
      host.pc := s.host.pc + 1
      host.reads := s.host.reads ++ [{ off := r.offset, size := .word, value := s.readReg r }] }) ∧
  (∀ (s : State) (f : Buf) (i : Nat), s.build.wf = true → i < f.size s.build → HostReady s (.read (f.offset + i) .byte) →
    step s = .next { s with
      host.pc := s.host.pc + 1
      host.reads := s.host.reads ++
        [{ off := f.offset + i, size := .byte, value := (s.win.mem.read (f.offset + i)).setWidth 32 }] }) ∧
  (∀ s : State, HostReady s .wait → step s = .next (if s.win.done then { s with host.pc := s.host.pc + 1 } else s)) ∧
  (∀ (s : State) (r : Reg) (hi lo value target : Nat), HostReady s (.jeq r.offset hi lo value target) →
    step s = .next { s with
      host.pc := if (s.readReg r).toNat / 2 ^ lo % 2 ^ (hi + 1 - lo) = value then target else s.host.pc + 1 }) ∧
  ∀ (s : State) (target : Nat), HostReady s (.jmp target) → step s = .next { s with host.pc := target }

/-- R356, R371: once the host's last statement has executed and no command runs, nothing changes any more, where no turn is
listed (log entry 4). -/
def Obligations.FinishedRunsStay : Prop :=
  ∀ s : State, s.host.turns = [] → s.busy = false → s.host.prog.length ≤ s.host.pc → step s = .next s
end

