-- ==== Sys2Proof/Laws/Decode.lean ====
section
/-! SUPPORT. The fields of a command word (30_encoding.md rule R110) and what decoding each opcode gives. -/

namespace Sys2Proof

/-- A word is its five fields. -/
theorem word_eq_fields (w : Word) :
    w = fieldRes w ++ fieldVar w ++ BitVec.ofBool (fieldO w) ++ BitVec.ofBool (fieldP w) ++ fieldOpc w := by
  apply BitVec.eq_of_getLsbD_eq
  intro i hi
  simp only [fieldRes, fieldVar, fieldO, fieldP, fieldOpc, BitVec.getLsbD_append, BitVec.getLsbD_extractLsb',
    BitVec.getLsbD_ofBool]
  rcases Nat.lt_or_ge i 4 with h | h
  · simp [h]
  · rcases Nat.lt_or_ge i 8 with h8 | h8
    · have : i = 4 ∨ i = 5 ∨ i = 6 ∨ i = 7 := by omega
      rcases this with rfl | rfl | rfl | rfl <;> simp
    · have h1 : ¬ i < 4 := by omega
      have h2 : ¬ i - 4 < 1 := by omega
      have h3 : ¬ i - 4 - 1 < 1 := by omega
      have h4 : ¬ i - 4 - 1 - 1 < 2 := by omega
      have h5 : i - 4 - 1 - 1 - 2 < 24 := by omega
      have h6 : 8 + (i - 4 - 1 - 1 - 2) = i := by omega
      simp [h1, h2, h3, h4, h5, h6]

/-- Words with equal fields are equal. -/
theorem word_ext_fields {w w' : Word} (h1 : fieldRes w = fieldRes w') (h2 : fieldVar w = fieldVar w')
    (h3 : fieldO w = fieldO w') (h4 : fieldP w = fieldP w') (h5 : fieldOpc w = fieldOpc w') : w = w' := by
  rw [word_eq_fields w, word_eq_fields w', h1, h2, h3, h4, h5]

theorem decodePlain_ok_iff {w : Word} {i j : Instr} :
    decodePlain w i = .ok j ↔ (fieldP w = false ∧ fieldO w = false ∧ fieldVar w = 0) ∧ i = j := by
  unfold decodePlain
  split
  · next h => simp [h]
  · next h => exact iff_of_false (by simp) fun h' => h h'.1

theorem decodeWithP_ok_iff {w : Word} {i : Bool → Instr} {j : Instr} :
    decodeWithP w i = .ok j ↔ (fieldO w = false ∧ fieldVar w = 0) ∧ i (fieldP w) = j := by
  unfold decodeWithP
  split
  · next h => simp [h]
  · next h => exact iff_of_false (by simp) fun h' => h h'.1

theorem whenDebug_ok_iff {debug : Bool} {r : Except DecodeError Instr} {j : Instr} :
    whenDebug debug r = .ok j ↔ debug = true ∧ r = .ok j := by
  unfold whenDebug
  cases debug <;> simp

/-- GENS and RDST decode only where DEBUG_ACCESS is true (R121). -/
theorem decode_debug {debug : Bool} {w : Word} {i : Instr} (h : decode debug w = .ok i) : i.wellFormed debug = true := by
  unfold decode at h
  split at h
  · cases h
  · split at h
    all_goals first
      | (obtain ⟨-, rfl⟩ := decodePlain_ok_iff.mp h; rfl)
      | (obtain ⟨-, rfl⟩ := decodeWithP_ok_iff.mp h; rfl)
      | (obtain ⟨hd, h⟩ := whenDebug_ok_iff.mp h; obtain ⟨-, rfl⟩ := decodePlain_ok_iff.mp h; exact hd)
      | (obtain ⟨hd, h⟩ := whenDebug_ok_iff.mp h; obtain ⟨-, rfl⟩ := decodeWithP_ok_iff.mp h; exact hd)
      | (cases h; rfl)
      | cases h

end Sys2Proof
end

