-- ==== Sys2Proof/Laws/Memory.lean ====
section
/-! SUPPORT. The laws of the window's bytes: the canonical form is kept, and what a read gives after each operation. -/

namespace Sys2Proof.Machine

/-! ### The canonical form -/

theorem Memory.wfFrom_cons {m : Memory} {lo : Nat} {c : Host.Cell} :
    Memory.wfFrom lo (c :: m) = true ↔ lo ≤ c.1 ∧ c.2 ≠ 0 ∧ Memory.wfFrom (c.1 + 1) m = true := by
  simp [Memory.wfFrom, and_assoc]

theorem Memory.wfFrom_mono {m : Memory} {lo lo' : Nat} (h : lo' ≤ lo) (hm : Memory.wfFrom lo m = true) :
    Memory.wfFrom lo' m = true := by
  cases m with
  | nil => rfl
  | cons c m =>
    obtain ⟨hlo, hc⟩ := Memory.wfFrom_cons.mp hm
    exact Memory.wfFrom_cons.mpr ⟨h.trans hlo, hc⟩

theorem Memory.wfFrom_push {m : Memory} {lo a : Nat} {b : Byte} (ha : lo ≤ a)
    (hm : Memory.wfFrom (a + 1) m = true) : Memory.wfFrom lo (Memory.push a b m) = true := by
  unfold Memory.push
  split
  · exact Memory.wfFrom_mono (by omega) hm
  · next h => exact Memory.wfFrom_cons.mpr ⟨ha, h, hm⟩

theorem Memory.wfFrom_write {m : Memory} {lo a : Nat} {b : Byte} (ha : lo ≤ a) (hm : Memory.wfFrom lo m = true) :
    Memory.wfFrom lo (Memory.write m a b) = true := by
  induction m generalizing lo with
  | nil => exact Memory.wfFrom_push ha rfl
  | cons c m ih =>
    obtain ⟨hlo, hc, hm⟩ := Memory.wfFrom_cons.mp hm
    unfold Memory.write
    split
    · next h => exact Memory.wfFrom_push ha (Memory.wfFrom_cons.mpr ⟨by omega, hc, hm⟩)
    · split
      · next h => exact Memory.wfFrom_push ha (by rw [h]; exact hm)
      · next h1 h2 =>
        exact Memory.wfFrom_cons.mpr ⟨hlo, hc, ih (by omega) hm⟩

/-- Storing a byte keeps the canonical form. -/
theorem Memory.wf_write {m : Memory} (a : Nat) (b : Byte) (hm : m.wf = true) : (Memory.write m a b).wf = true :=
  Memory.wfFrom_write (Nat.zero_le a) hm

/-- Storing a byte string keeps the canonical form. -/
theorem Memory.wf_writeBytes {m : Memory} (a : Nat) (bs : Bytes) (hm : m.wf = true) :
    (Memory.writeBytes m a bs).wf = true := by
  induction bs generalizing m a with
  | nil => exact hm
  | cons b bs ih => exact ih (a + 1) (Memory.wf_write a b hm)

theorem Memory.wfFrom_filter {m : Memory} {lo : Nat} (p : Host.Cell → Bool) (hm : Memory.wfFrom lo m = true) :
    Memory.wfFrom lo (m.filter p) = true := by
  induction m generalizing lo with
  | nil => rfl
  | cons c m ih =>
    obtain ⟨hlo, hc, hm⟩ := Memory.wfFrom_cons.mp hm
    rw [List.filter_cons]
    split
    · exact Memory.wfFrom_cons.mpr ⟨hlo, hc, ih hm⟩
    · exact Memory.wfFrom_mono (by omega) (ih hm)

/-- Clearing keeps the canonical form. -/
theorem Memory.wf_clear {m : Memory} (a n : Nat) (hm : m.wf = true) : (Memory.clear m a n).wf = true :=
  Memory.wfFrom_filter _ hm

/-! ### Reads -/

@[simp] theorem Memory.read_nil (a : Nat) : Memory.read [] a = 0 := rfl

theorem Memory.read_below {m : Memory} {lo a : Nat} (hm : Memory.wfFrom lo m = true) (h : a < lo) :
    Memory.read m a = 0 := by
  induction m generalizing lo with
  | nil => rfl
  | cons c m ih =>
    obtain ⟨hlo, -, hm⟩ := Memory.wfFrom_cons.mp hm
    rw [Memory.read, if_neg (by omega)]
    exact ih hm (by omega)

theorem Memory.read_push_other {m : Memory} {a x : Nat} {b : Byte} (h : x ≠ a) :
    Memory.read (Memory.push a b m) x = Memory.read m x := by
  unfold Memory.push
  split
  · rfl
  · simp [Memory.read, h]

/-- Storing a byte leaves every other offset alone. -/
theorem Memory.read_write_other (m : Memory) {a x : Nat} (b : Byte) (h : x ≠ a) :
    Memory.read (Memory.write m a b) x = Memory.read m x := by
  induction m with
  | nil => exact Memory.read_push_other h
  | cons c m ih =>
    unfold Memory.write
    split
    · exact Memory.read_push_other h
    · split
      · next hc => rw [Memory.read_push_other h]; simp [Memory.read, ← hc, h]
      · simp only [Memory.read, ih]

theorem Memory.read_push_same {m : Memory} {a : Nat} {b : Byte} (hm : Memory.wfFrom (a + 1) m = true) :
    Memory.read (Memory.push a b m) a = b := by
  unfold Memory.push
  split
  · next h => rw [h]; exact Memory.read_below hm (Nat.lt_succ_self a)
  · simp [Memory.read]

theorem Memory.read_write_same_from {m : Memory} {lo a : Nat} (b : Byte) (hm : Memory.wfFrom lo m = true) :
    Memory.read (Memory.write m a b) a = b := by
  induction m generalizing lo with
  | nil => exact Memory.read_push_same rfl
  | cons c m ih =>
    obtain ⟨hlo, hc, hm⟩ := Memory.wfFrom_cons.mp hm
    unfold Memory.write
    split
    · next h => exact Memory.read_push_same (Memory.wfFrom_cons.mpr ⟨by omega, hc, hm⟩)
    · split
      · next h => exact Memory.read_push_same (by rw [h]; exact hm)
      · next h1 h2 =>
        rw [Memory.read, if_neg h2]
        exact ih hm

/-- A read after a store to the same offset gives the value stored. -/
theorem Memory.read_write_same {m : Memory} (a : Nat) (b : Byte) (hm : m.wf = true) :
    Memory.read (Memory.write m a b) a = b :=
  Memory.read_write_same_from b hm

theorem Memory.read_write {m : Memory} (a x : Nat) (b : Byte) (hm : m.wf = true) :
    Memory.read (Memory.write m a b) x = if x = a then b else Memory.read m x := by
  split
  · next h => rw [h]; exact Memory.read_write_same a b hm
  · next h => exact Memory.read_write_other m b h

/-- A byte string stored at `a` leaves the offsets outside it alone. -/
theorem Memory.read_writeBytes_other (m : Memory) {a x : Nat} (bs : Bytes) (h : x < a ∨ a + bs.length ≤ x) :
    Memory.read (Memory.writeBytes m a bs) x = Memory.read m x := by
  induction bs generalizing m a with
  | nil => rfl
  | cons b bs ih =>
    simp only [List.length_cons] at h
    rw [Memory.writeBytes, ih _ (by omega), Memory.read_write_other m b (by omega)]

/-- A byte string stored at `a` is read back from there. -/
theorem Memory.read_writeBytes_inside {m : Memory} (a i : Nat) (bs : Bytes) (hm : m.wf = true) (hi : i < bs.length) :
    Memory.read (Memory.writeBytes m a bs) (a + i) = bs[i] := by
  induction bs generalizing m a i with
  | nil => exact absurd hi (Nat.not_lt_zero i)
  | cons b bs ih =>
    rw [Memory.writeBytes]
    cases i with
    | zero =>
      rw [Memory.read_writeBytes_other _ bs (by omega)]
      exact Memory.read_write_same a b hm
    | succ i =>
      have := ih (m := Memory.write m a b) (a + 1) i (Memory.wf_write a b hm) (by simpa using hi)
      rw [show a + (i + 1) = a + 1 + i by omega, this]
      rfl

/-- Clearing: the offsets cleared read 0x00, the others as before. -/
@[simp] theorem Memory.read_clear (m : Memory) (a n x : Nat) :
    Memory.read (Memory.clear m a n) x = if a ≤ x ∧ x < a + n then 0 else Memory.read m x := by
  induction m with
  | nil => simp [Memory.clear]
  | cons c m ih =>
    have hfold : List.filter (fun c : Host.Cell => !(decide (a ≤ c.1) && decide (c.1 < a + n))) m = Memory.clear m a n := rfl
    rw [Memory.clear, List.filter_cons, hfold]
    by_cases hin : a ≤ c.1 ∧ c.1 < a + n
    · have hx : x = c.1 → a ≤ x ∧ x < a + n := fun h => h ▸ hin
      simp only [hin.1, hin.2, decide_true, Bool.and_self, Bool.not_true, Bool.false_eq_true, if_false, ih, Memory.read]
      by_cases h : x = c.1
      · simp [hx h]
      · simp [h]
    · have hc : (!(decide (a ≤ c.1) && decide (c.1 < a + n))) = true := by
        simp only [Bool.not_eq_true', Bool.and_eq_false_iff, decide_eq_false_iff_not]
        exact not_and_or.mp hin
      have hx : x = c.1 → ¬(a ≤ x ∧ x < a + n) := fun h => h ▸ hin
      simp only [hc, if_true, Memory.read, ih]
      by_cases h : x = c.1
      · simp only [h, if_true, if_neg hin]
      · simp [h]

/-! ### What is listed -/

theorem Memory.mem_push {m : Memory} {a : Nat} {b : Byte} {c : Host.Cell} (h : c ∈ Memory.push a b m) :
    c = (a, b) ∨ c ∈ m := by
  unfold Memory.push at h
  split at h
  · exact .inr h
  · simpa using h

theorem Memory.mem_write {m : Memory} {a : Nat} {b : Byte} {c : Host.Cell} (h : c ∈ Memory.write m a b) :
    c = (a, b) ∨ c ∈ m := by
  induction m with
  | nil => exact Memory.mem_push h
  | cons d m ih =>
    unfold Memory.write at h
    split at h
    · exact Memory.mem_push h
    · split at h
      · exact (Memory.mem_push h).imp id (List.mem_cons_of_mem d)
      · rcases List.mem_cons.mp h with h | h
        · exact .inr (h ▸ List.mem_cons_self)
        · exact (ih h).imp id (List.mem_cons_of_mem d)

/-- Storing a byte string lists only its own offsets anew. -/
theorem Memory.mem_writeBytes {m : Memory} {a : Nat} {bs : Bytes} {c : Host.Cell}
    (h : c ∈ Memory.writeBytes m a bs) : (a ≤ c.1 ∧ c.1 < a + bs.length) ∨ c ∈ m := by
  induction bs generalizing m a with
  | nil => exact .inr h
  | cons b bs ih =>
    rw [List.length_cons]
    rcases ih h with h | h
    · exact .inl (by omega)
    · rcases Memory.mem_write h with h | h
      · exact .inl (by rw [h]; simp)
      · exact .inr h

/-- Clearing lists nothing anew. -/
theorem Memory.mem_clear {m : Memory} {a n : Nat} {c : Host.Cell} (h : c ∈ Memory.clear m a n) : c ∈ m :=
  (List.mem_filter.mp h).1

@[simp] theorem Memory.readBytes_length (m : Memory) (a n : Nat) : (Memory.readBytes m a n).length = n := by
  simp [Memory.readBytes]

end Sys2Proof.Machine
end

