-- ==== Sys2Proof/Laws/State.lean ====
section
/-! SUPPORT. One lemma per field per update of the state, each true by rfl, so that no later proof unfolds a record update. -/

namespace Sys2Proof.Machine

/-! #### storeBuf -/

@[simp] theorem State.storeBuf_build (s : State) (f : Buf) (bs : Bytes) : (s.storeBuf f bs).build = s.build := rfl
@[simp] theorem State.storeBuf_gen (s : State) (f : Buf) (bs : Bytes) : (s.storeBuf f bs).gen = s.gen := rfl
@[simp] theorem State.storeBuf_win_arg (s : State) (f : Buf) (bs : Bytes) : (s.storeBuf f bs).win.arg = s.win.arg := rfl
@[simp] theorem State.storeBuf_win_len0 (s : State) (f : Buf) (bs : Bytes) : (s.storeBuf f bs).win.len0 = s.win.len0 := rfl
@[simp] theorem State.storeBuf_win_len1 (s : State) (f : Buf) (bs : Bytes) : (s.storeBuf f bs).win.len1 = s.win.len1 := rfl
@[simp] theorem State.storeBuf_win_len2 (s : State) (f : Buf) (bs : Bytes) : (s.storeBuf f bs).win.len2 = s.win.len2 := rfl
@[simp] theorem State.storeBuf_win_outLen (s : State) (f : Buf) (bs : Bytes) : (s.storeBuf f bs).win.outLen = s.win.outLen := rfl
@[simp] theorem State.storeBuf_win_dbgCntLo (s : State) (f : Buf) (bs : Bytes) : (s.storeBuf f bs).win.dbgCntLo = s.win.dbgCntLo := rfl
@[simp] theorem State.storeBuf_win_dbgCntHi (s : State) (f : Buf) (bs : Bytes) : (s.storeBuf f bs).win.dbgCntHi = s.win.dbgCntHi := rfl
@[simp] theorem State.storeBuf_win_done (s : State) (f : Buf) (bs : Bytes) : (s.storeBuf f bs).win.done = s.win.done := rfl
@[simp] theorem State.storeBuf_win_err (s : State) (f : Buf) (bs : Bytes) : (s.storeBuf f bs).win.err = s.win.err := rfl
@[simp] theorem State.storeBuf_win_mem (s : State) (f : Buf) (bs : Bytes) : (s.storeBuf f bs).win.mem = s.win.mem.writeBytes f.offset (bs.take (f.size s.build)) := rfl
@[simp] theorem State.storeBuf_seq (s : State) (f : Buf) (bs : Bytes) : (s.storeBuf f bs).seq = s.seq := rfl
@[simp] theorem State.storeBuf_host (s : State) (f : Buf) (bs : Bytes) : (s.storeBuf f bs).host = s.host := rfl
@[simp] theorem State.storeBuf_trace (s : State) (f : Buf) (bs : Bytes) : (s.storeBuf f bs).trace = s.trace := rfl
@[simp] theorem State.storeBuf_draws (s : State) (f : Buf) (bs : Bytes) : (s.storeBuf f bs).draws = s.draws := rfl

/-! #### clearBuf -/

@[simp] theorem State.clearBuf_build (s : State) (f : Buf) : (s.clearBuf f).build = s.build := rfl
@[simp] theorem State.clearBuf_gen (s : State) (f : Buf) : (s.clearBuf f).gen = s.gen := rfl
@[simp] theorem State.clearBuf_win_arg (s : State) (f : Buf) : (s.clearBuf f).win.arg = s.win.arg := rfl
@[simp] theorem State.clearBuf_win_len0 (s : State) (f : Buf) : (s.clearBuf f).win.len0 = s.win.len0 := rfl
@[simp] theorem State.clearBuf_win_len1 (s : State) (f : Buf) : (s.clearBuf f).win.len1 = s.win.len1 := rfl
@[simp] theorem State.clearBuf_win_len2 (s : State) (f : Buf) : (s.clearBuf f).win.len2 = s.win.len2 := rfl
@[simp] theorem State.clearBuf_win_outLen (s : State) (f : Buf) : (s.clearBuf f).win.outLen = s.win.outLen := rfl
@[simp] theorem State.clearBuf_win_dbgCntLo (s : State) (f : Buf) : (s.clearBuf f).win.dbgCntLo = s.win.dbgCntLo := rfl
@[simp] theorem State.clearBuf_win_dbgCntHi (s : State) (f : Buf) : (s.clearBuf f).win.dbgCntHi = s.win.dbgCntHi := rfl
@[simp] theorem State.clearBuf_win_done (s : State) (f : Buf) : (s.clearBuf f).win.done = s.win.done := rfl
@[simp] theorem State.clearBuf_win_err (s : State) (f : Buf) : (s.clearBuf f).win.err = s.win.err := rfl
@[simp] theorem State.clearBuf_win_mem (s : State) (f : Buf) : (s.clearBuf f).win.mem = s.win.mem.clear f.offset (f.size s.build) := rfl
@[simp] theorem State.clearBuf_seq (s : State) (f : Buf) : (s.clearBuf f).seq = s.seq := rfl
@[simp] theorem State.clearBuf_host (s : State) (f : Buf) : (s.clearBuf f).host = s.host := rfl
@[simp] theorem State.clearBuf_trace (s : State) (f : Buf) : (s.clearBuf f).trace = s.trace := rfl
@[simp] theorem State.clearBuf_draws (s : State) (f : Buf) : (s.clearBuf f).draws = s.draws := rfl

/-! #### rekey -/

@[simp] theorem State.rekey_build (s : State) (m : Bytes) : (s.rekey m).build = s.build := rfl
@[simp] theorem State.rekey_gen_inst (s : State) (m : Bytes) : (s.rekey m).gen.inst = s.gen.inst := rfl
@[simp] theorem State.rekey_gen_variant (s : State) (m : Bytes) : (s.rekey m).gen.variant = s.gen.variant := rfl
@[simp] theorem State.rekey_gen_minEnt (s : State) (m : Bytes) : (s.rekey m).gen.minEnt = s.gen.minEnt := rfl
@[simp] theorem State.rekey_gen_k (s : State) (m : Bytes) : (s.rekey m).gen.k = s.hmac s.gen.k m := rfl
@[simp] theorem State.rekey_gen_v (s : State) (m : Bytes) : (s.rekey m).gen.v = s.gen.v := rfl
@[simp] theorem State.rekey_gen_cnt (s : State) (m : Bytes) : (s.rekey m).gen.cnt = s.gen.cnt := rfl
@[simp] theorem State.rekey_win (s : State) (m : Bytes) : (s.rekey m).win = s.win := rfl
@[simp] theorem State.rekey_seq (s : State) (m : Bytes) : (s.rekey m).seq = s.seq := rfl
@[simp] theorem State.rekey_host (s : State) (m : Bytes) : (s.rekey m).host = s.host := rfl
@[simp] theorem State.rekey_trace (s : State) (m : Bytes) : (s.rekey m).trace = s.trace ++ [s.callEvent m] := rfl
@[simp] theorem State.rekey_draws (s : State) (m : Bytes) : (s.rekey m).draws = s.draws := rfl

/-! #### chain -/

@[simp] theorem State.chain_build (s : State) : (s.chain).build = s.build := rfl
@[simp] theorem State.chain_gen_inst (s : State) : (s.chain).gen.inst = s.gen.inst := rfl
@[simp] theorem State.chain_gen_variant (s : State) : (s.chain).gen.variant = s.gen.variant := rfl
@[simp] theorem State.chain_gen_minEnt (s : State) : (s.chain).gen.minEnt = s.gen.minEnt := rfl
@[simp] theorem State.chain_gen_k (s : State) : (s.chain).gen.k = s.gen.k := rfl
@[simp] theorem State.chain_gen_v (s : State) : (s.chain).gen.v = s.hmac s.gen.k s.gen.v := rfl
@[simp] theorem State.chain_gen_cnt (s : State) : (s.chain).gen.cnt = s.gen.cnt := rfl
@[simp] theorem State.chain_win (s : State) : (s.chain).win = s.win := rfl
@[simp] theorem State.chain_seq (s : State) : (s.chain).seq = s.seq := rfl
@[simp] theorem State.chain_host (s : State) : (s.chain).host = s.host := rfl
@[simp] theorem State.chain_trace (s : State) : (s.chain).trace = s.trace ++ [s.callEvent s.gen.v] := rfl
@[simp] theorem State.chain_draws (s : State) : (s.chain).draws = s.draws := rfl

/-! #### setUpdate -/

@[simp] theorem State.setUpdate_build (s : State) (ret : URet) (d : Opt) : (s.setUpdate ret d).build = s.build := rfl
@[simp] theorem State.setUpdate_gen (s : State) (ret : URet) (d : Opt) : (s.setUpdate ret d).gen = s.gen := rfl
@[simp] theorem State.setUpdate_win (s : State) (ret : URet) (d : Opt) : (s.setUpdate ret d).win = s.win := rfl
@[simp] theorem State.setUpdate_seq_phase (s : State) (ret : URet) (d : Opt) : (s.setUpdate ret d).seq.phase = s.seq.phase := rfl
@[simp] theorem State.setUpdate_seq_lcmd (s : State) (ret : URet) (d : Opt) : (s.setUpdate ret d).seq.lcmd = s.seq.lcmd := rfl
@[simp] theorem State.setUpdate_seq_udata (s : State) (ret : URet) (d : Opt) : (s.setUpdate ret d).seq.udata = d := rfl
@[simp] theorem State.setUpdate_seq_uret (s : State) (ret : URet) (d : Opt) : (s.setUpdate ret d).seq.uret = ret := rfl
@[simp] theorem State.setUpdate_seq_tbuf (s : State) (ret : URet) (d : Opt) : (s.setUpdate ret d).seq.tbuf = s.seq.tbuf := rfl
@[simp] theorem State.setUpdate_seq_nreq (s : State) (ret : URet) (d : Opt) : (s.setUpdate ret d).seq.nreq = s.seq.nreq := rfl
@[simp] theorem State.setUpdate_seq_adata (s : State) (ret : URet) (d : Opt) : (s.setUpdate ret d).seq.adata = s.seq.adata := rfl
@[simp] theorem State.setUpdate_seq_outcome (s : State) (ret : URet) (d : Opt) : (s.setUpdate ret d).seq.outcome = s.seq.outcome := rfl
@[simp] theorem State.setUpdate_host (s : State) (ret : URet) (d : Opt) : (s.setUpdate ret d).host = s.host := rfl
@[simp] theorem State.setUpdate_trace (s : State) (ret : URet) (d : Opt) : (s.setUpdate ret d).trace = s.trace := rfl
@[simp] theorem State.setUpdate_draws (s : State) (ret : URet) (d : Opt) : (s.setUpdate ret d).draws = s.draws := rfl

/-! #### decrementCnt -/

@[simp] theorem State.decrementCnt_build (s : State) : (s.decrementCnt).build = s.build := rfl
@[simp] theorem State.decrementCnt_gen_inst (s : State) : (s.decrementCnt).gen.inst = s.gen.inst := rfl
@[simp] theorem State.decrementCnt_gen_variant (s : State) : (s.decrementCnt).gen.variant = s.gen.variant := rfl
@[simp] theorem State.decrementCnt_gen_minEnt (s : State) : (s.decrementCnt).gen.minEnt = s.gen.minEnt := rfl
@[simp] theorem State.decrementCnt_gen_k (s : State) : (s.decrementCnt).gen.k = s.gen.k := rfl
@[simp] theorem State.decrementCnt_gen_v (s : State) : (s.decrementCnt).gen.v = s.gen.v := rfl
@[simp] theorem State.decrementCnt_gen_cnt (s : State) : (s.decrementCnt).gen.cnt = s.gen.cnt - 1 := rfl
@[simp] theorem State.decrementCnt_win (s : State) : (s.decrementCnt).win = s.win := rfl
@[simp] theorem State.decrementCnt_seq (s : State) : (s.decrementCnt).seq = s.seq := rfl
@[simp] theorem State.decrementCnt_host (s : State) : (s.decrementCnt).host = s.host := rfl
@[simp] theorem State.decrementCnt_trace (s : State) : (s.decrementCnt).trace = s.trace := rfl
@[simp] theorem State.decrementCnt_draws (s : State) : (s.decrementCnt).draws = s.draws := rfl

/-! #### reloadCnt -/

@[simp] theorem State.reloadCnt_build (s : State) : (s.reloadCnt).build = s.build := rfl
@[simp] theorem State.reloadCnt_gen_inst (s : State) : (s.reloadCnt).gen.inst = s.gen.inst := rfl
@[simp] theorem State.reloadCnt_gen_variant (s : State) : (s.reloadCnt).gen.variant = s.gen.variant := rfl
@[simp] theorem State.reloadCnt_gen_minEnt (s : State) : (s.reloadCnt).gen.minEnt = s.gen.minEnt := rfl
@[simp] theorem State.reloadCnt_gen_k (s : State) : (s.reloadCnt).gen.k = s.gen.k := rfl
@[simp] theorem State.reloadCnt_gen_v (s : State) : (s.reloadCnt).gen.v = s.gen.v := rfl
@[simp] theorem State.reloadCnt_gen_cnt (s : State) : (s.reloadCnt).gen.cnt = s.build.ri := rfl
@[simp] theorem State.reloadCnt_win (s : State) : (s.reloadCnt).win = s.win := rfl
@[simp] theorem State.reloadCnt_seq (s : State) : (s.reloadCnt).seq = s.seq := rfl
@[simp] theorem State.reloadCnt_host (s : State) : (s.reloadCnt).host = s.host := rfl
@[simp] theorem State.reloadCnt_trace (s : State) : (s.reloadCnt).trace = s.trace := rfl
@[simp] theorem State.reloadCnt_draws (s : State) : (s.reloadCnt).draws = s.draws := rfl

/-! #### startGen -/

@[simp] theorem State.startGen_build (s : State) (a : Opt) : (s.startGen a).build = s.build := rfl
@[simp] theorem State.startGen_gen (s : State) (a : Opt) : (s.startGen a).gen = s.gen := rfl
@[simp] theorem State.startGen_win (s : State) (a : Opt) : (s.startGen a).win = s.win := rfl
@[simp] theorem State.startGen_seq_phase (s : State) (a : Opt) : (s.startGen a).seq.phase = s.seq.phase := rfl
@[simp] theorem State.startGen_seq_lcmd (s : State) (a : Opt) : (s.startGen a).seq.lcmd = s.seq.lcmd := rfl
@[simp] theorem State.startGen_seq_udata (s : State) (a : Opt) : (s.startGen a).seq.udata = s.seq.udata := rfl
@[simp] theorem State.startGen_seq_uret (s : State) (a : Opt) : (s.startGen a).seq.uret = s.seq.uret := rfl
@[simp] theorem State.startGen_seq_tbuf (s : State) (a : Opt) : (s.startGen a).seq.tbuf = [] := rfl
@[simp] theorem State.startGen_seq_nreq (s : State) (a : Opt) : (s.startGen a).seq.nreq = s.win.arg := rfl
@[simp] theorem State.startGen_seq_adata (s : State) (a : Opt) : (s.startGen a).seq.adata = a := rfl
@[simp] theorem State.startGen_seq_outcome (s : State) (a : Opt) : (s.startGen a).seq.outcome = s.seq.outcome := rfl
@[simp] theorem State.startGen_host (s : State) (a : Opt) : (s.startGen a).host = s.host := rfl
@[simp] theorem State.startGen_trace (s : State) (a : Opt) : (s.startGen a).trace = s.trace := rfl
@[simp] theorem State.startGen_draws (s : State) (a : Opt) : (s.startGen a).draws = s.draws := rfl

/-! #### genBlock -/

@[simp] theorem State.genBlock_build (s : State) : (s.genBlock).build = s.build := rfl
@[simp] theorem State.genBlock_gen_inst (s : State) : (s.genBlock).gen.inst = s.gen.inst := rfl
@[simp] theorem State.genBlock_gen_variant (s : State) : (s.genBlock).gen.variant = s.gen.variant := rfl
@[simp] theorem State.genBlock_gen_minEnt (s : State) : (s.genBlock).gen.minEnt = s.gen.minEnt := rfl
@[simp] theorem State.genBlock_gen_k (s : State) : (s.genBlock).gen.k = s.gen.k := rfl
@[simp] theorem State.genBlock_gen_v (s : State) : (s.genBlock).gen.v = s.hmac s.gen.k s.gen.v := rfl
@[simp] theorem State.genBlock_gen_cnt (s : State) : (s.genBlock).gen.cnt = s.gen.cnt := rfl
@[simp] theorem State.genBlock_win (s : State) : (s.genBlock).win = s.win := rfl
@[simp] theorem State.genBlock_seq_phase (s : State) : (s.genBlock).seq.phase = s.seq.phase := rfl
@[simp] theorem State.genBlock_seq_lcmd (s : State) : (s.genBlock).seq.lcmd = s.seq.lcmd := rfl
@[simp] theorem State.genBlock_seq_udata (s : State) : (s.genBlock).seq.udata = s.seq.udata := rfl
@[simp] theorem State.genBlock_seq_uret (s : State) : (s.genBlock).seq.uret = s.seq.uret := rfl
@[simp] theorem State.genBlock_seq_tbuf (s : State) : (s.genBlock).seq.tbuf = s.seq.tbuf ++ s.hmac s.gen.k s.gen.v := rfl
@[simp] theorem State.genBlock_seq_nreq (s : State) : (s.genBlock).seq.nreq = s.seq.nreq := rfl
@[simp] theorem State.genBlock_seq_adata (s : State) : (s.genBlock).seq.adata = s.seq.adata := rfl
@[simp] theorem State.genBlock_seq_outcome (s : State) : (s.genBlock).seq.outcome = s.seq.outcome := rfl
@[simp] theorem State.genBlock_host (s : State) : (s.genBlock).host = s.host := rfl
@[simp] theorem State.genBlock_trace (s : State) : (s.genBlock).trace = s.trace ++ [s.callEvent s.gen.v] := rfl
@[simp] theorem State.genBlock_draws (s : State) : (s.genBlock).draws = s.draws := rfl

/-! #### genTrunc -/

@[simp] theorem State.genTrunc_build (s : State) : (s.genTrunc).build = s.build := rfl
@[simp] theorem State.genTrunc_gen (s : State) : (s.genTrunc).gen = s.gen := rfl
@[simp] theorem State.genTrunc_win_arg (s : State) : (s.genTrunc).win.arg = s.win.arg := rfl
@[simp] theorem State.genTrunc_win_len0 (s : State) : (s.genTrunc).win.len0 = s.win.len0 := rfl
@[simp] theorem State.genTrunc_win_len1 (s : State) : (s.genTrunc).win.len1 = s.win.len1 := rfl
@[simp] theorem State.genTrunc_win_len2 (s : State) : (s.genTrunc).win.len2 = s.win.len2 := rfl
@[simp] theorem State.genTrunc_win_outLen (s : State) : (s.genTrunc).win.outLen = s.seq.nreq := rfl
@[simp] theorem State.genTrunc_win_dbgCntLo (s : State) : (s.genTrunc).win.dbgCntLo = s.win.dbgCntLo := rfl
@[simp] theorem State.genTrunc_win_dbgCntHi (s : State) : (s.genTrunc).win.dbgCntHi = s.win.dbgCntHi := rfl
@[simp] theorem State.genTrunc_win_done (s : State) : (s.genTrunc).win.done = s.win.done := rfl
@[simp] theorem State.genTrunc_win_err (s : State) : (s.genTrunc).win.err = s.win.err := rfl
@[simp] theorem State.genTrunc_win_mem (s : State) : (s.genTrunc).win.mem = (s.storeBuf .out (s.seq.tbuf.take s.seq.nreq.toNat)).win.mem := rfl
@[simp] theorem State.genTrunc_seq (s : State) : (s.genTrunc).seq = s.seq := rfl
@[simp] theorem State.genTrunc_host (s : State) : (s.genTrunc).host = s.host := rfl
@[simp] theorem State.genTrunc_trace (s : State) : (s.genTrunc).trace = s.trace := rfl
@[simp] theorem State.genTrunc_draws (s : State) : (s.genTrunc).draws = s.draws := rfl

/-! #### showKV -/

@[simp] theorem State.showKV_build (s : State) : (s.showKV).build = s.build := rfl
@[simp] theorem State.showKV_gen (s : State) : (s.showKV).gen = s.gen := rfl
@[simp] theorem State.showKV_win_arg (s : State) : (s.showKV).win.arg = s.win.arg := rfl
@[simp] theorem State.showKV_win_len0 (s : State) : (s.showKV).win.len0 = s.win.len0 := rfl
@[simp] theorem State.showKV_win_len1 (s : State) : (s.showKV).win.len1 = s.win.len1 := rfl
@[simp] theorem State.showKV_win_len2 (s : State) : (s.showKV).win.len2 = s.win.len2 := rfl
@[simp] theorem State.showKV_win_outLen (s : State) : (s.showKV).win.outLen = s.win.outLen := rfl
@[simp] theorem State.showKV_win_dbgCntLo (s : State) : (s.showKV).win.dbgCntLo = s.win.dbgCntLo := rfl
@[simp] theorem State.showKV_win_dbgCntHi (s : State) : (s.showKV).win.dbgCntHi = s.win.dbgCntHi := rfl
@[simp] theorem State.showKV_win_done (s : State) : (s.showKV).win.done = s.win.done := rfl
@[simp] theorem State.showKV_win_err (s : State) : (s.showKV).win.err = s.win.err := rfl
@[simp] theorem State.showKV_win_mem (s : State) : (s.showKV).win.mem = ((s.storeBuf .dbgK (s.gen.k.take (s.build.digestLen s.gen.variant))).storeBuf .dbgV
      (s.gen.v.take (s.build.digestLen s.gen.variant))).win.mem := rfl
@[simp] theorem State.showKV_seq (s : State) : (s.showKV).seq = s.seq := rfl
@[simp] theorem State.showKV_host (s : State) : (s.showKV).host = s.host := rfl
@[simp] theorem State.showKV_trace (s : State) : (s.showKV).trace = s.trace := rfl
@[simp] theorem State.showKV_draws (s : State) : (s.showKV).draws = s.draws := rfl

/-! #### showCnt -/

@[simp] theorem State.showCnt_build (s : State) : (s.showCnt).build = s.build := rfl
@[simp] theorem State.showCnt_gen (s : State) : (s.showCnt).gen = s.gen := rfl
@[simp] theorem State.showCnt_win_arg (s : State) : (s.showCnt).win.arg = s.win.arg := rfl
@[simp] theorem State.showCnt_win_len0 (s : State) : (s.showCnt).win.len0 = s.win.len0 := rfl
@[simp] theorem State.showCnt_win_len1 (s : State) : (s.showCnt).win.len1 = s.win.len1 := rfl
@[simp] theorem State.showCnt_win_len2 (s : State) : (s.showCnt).win.len2 = s.win.len2 := rfl
@[simp] theorem State.showCnt_win_outLen (s : State) : (s.showCnt).win.outLen = s.win.outLen := rfl
@[simp] theorem State.showCnt_win_dbgCntLo (s : State) : (s.showCnt).win.dbgCntLo = s.gen.cnt.extractLsb' 0 32 := rfl
@[simp] theorem State.showCnt_win_dbgCntHi (s : State) : (s.showCnt).win.dbgCntHi = s.gen.cnt.extractLsb' 32 32 := rfl
@[simp] theorem State.showCnt_win_done (s : State) : (s.showCnt).win.done = s.win.done := rfl
@[simp] theorem State.showCnt_win_err (s : State) : (s.showCnt).win.err = s.win.err := rfl
@[simp] theorem State.showCnt_win_mem (s : State) : (s.showCnt).win.mem = s.win.mem := rfl
@[simp] theorem State.showCnt_seq (s : State) : (s.showCnt).seq = s.seq := rfl
@[simp] theorem State.showCnt_host (s : State) : (s.showCnt).host = s.host := rfl
@[simp] theorem State.showCnt_trace (s : State) : (s.showCnt).trace = s.trace := rfl
@[simp] theorem State.showCnt_draws (s : State) : (s.showCnt).draws = s.draws := rfl

/-! #### loadInstance -/

@[simp] theorem State.loadInstance_build (s : State) (var : BitVec 2) (m : Word) : (s.loadInstance var m).build = s.build := rfl
@[simp] theorem State.loadInstance_gen_inst (s : State) (var : BitVec 2) (m : Word) : (s.loadInstance var m).gen.inst = true := rfl
@[simp] theorem State.loadInstance_gen_variant (s : State) (var : BitVec 2) (m : Word) : (s.loadInstance var m).gen.variant = var := rfl
@[simp] theorem State.loadInstance_gen_minEnt (s : State) (var : BitVec 2) (m : Word) : (s.loadInstance var m).gen.minEnt = m := rfl
@[simp] theorem State.loadInstance_gen_k (s : State) (var : BitVec 2) (m : Word) : (s.loadInstance var m).gen.k = zeros (s.build.digestLen var) := rfl
@[simp] theorem State.loadInstance_gen_v (s : State) (var : BitVec 2) (m : Word) : (s.loadInstance var m).gen.v = fill (s.build.digestLen var) 0x01 := rfl
@[simp] theorem State.loadInstance_gen_cnt (s : State) (var : BitVec 2) (m : Word) : (s.loadInstance var m).gen.cnt = s.build.ri := rfl
@[simp] theorem State.loadInstance_win (s : State) (var : BitVec 2) (m : Word) : (s.loadInstance var m).win = s.win := rfl
@[simp] theorem State.loadInstance_seq (s : State) (var : BitVec 2) (m : Word) : (s.loadInstance var m).seq = s.seq := rfl
@[simp] theorem State.loadInstance_host (s : State) (var : BitVec 2) (m : Word) : (s.loadInstance var m).host = s.host := rfl
@[simp] theorem State.loadInstance_trace (s : State) (var : BitVec 2) (m : Word) : (s.loadInstance var m).trace = s.trace := rfl
@[simp] theorem State.loadInstance_draws (s : State) (var : BitVec 2) (m : Word) : (s.loadInstance var m).draws = s.draws := rfl

/-! #### wipe -/

@[simp] theorem State.wipe_build (s : State) : (s.wipe).build = s.build := rfl
@[simp] theorem State.wipe_gen (s : State) : (s.wipe).gen = Gen.reset := rfl
@[simp] theorem State.wipe_win (s : State) : (s.wipe).win = s.win := rfl
@[simp] theorem State.wipe_seq (s : State) : (s.wipe).seq = s.seq := rfl
@[simp] theorem State.wipe_host (s : State) : (s.wipe).host = s.host := rfl
@[simp] theorem State.wipe_trace (s : State) : (s.wipe).trace = s.trace := rfl
@[simp] theorem State.wipe_draws (s : State) : (s.wipe).draws = s.draws := rfl

/-! #### issue -/

@[simp] theorem State.issue_build (s : State) (w : Word) : (s.issue w).build = s.build := rfl
@[simp] theorem State.issue_gen (s : State) (w : Word) : (s.issue w).gen = s.gen := rfl
@[simp] theorem State.issue_win_arg (s : State) (w : Word) : (s.issue w).win.arg = s.win.arg := rfl
@[simp] theorem State.issue_win_len0 (s : State) (w : Word) : (s.issue w).win.len0 = s.win.len0 := rfl
@[simp] theorem State.issue_win_len1 (s : State) (w : Word) : (s.issue w).win.len1 = s.win.len1 := rfl
@[simp] theorem State.issue_win_len2 (s : State) (w : Word) : (s.issue w).win.len2 = s.win.len2 := rfl
@[simp] theorem State.issue_win_outLen (s : State) (w : Word) : (s.issue w).win.outLen = 0 := rfl
@[simp] theorem State.issue_win_dbgCntLo (s : State) (w : Word) : (s.issue w).win.dbgCntLo = 0 := rfl
@[simp] theorem State.issue_win_dbgCntHi (s : State) (w : Word) : (s.issue w).win.dbgCntHi = 0 := rfl
@[simp] theorem State.issue_win_done (s : State) (w : Word) : (s.issue w).win.done = false := rfl
@[simp] theorem State.issue_win_err (s : State) (w : Word) : (s.issue w).win.err = .ok := rfl
@[simp] theorem State.issue_win_mem (s : State) (w : Word) : (s.issue w).win.mem = (((s.clearBuf .out).clearBuf .dbgK).clearBuf .dbgV).win.mem := rfl
@[simp] theorem State.issue_seq_phase (s : State) (w : Word) : (s.issue w).seq.phase = .check := rfl
@[simp] theorem State.issue_seq_lcmd (s : State) (w : Word) : (s.issue w).seq.lcmd = w := rfl
@[simp] theorem State.issue_seq_udata (s : State) (w : Word) : (s.issue w).seq.udata = s.seq.udata := rfl
@[simp] theorem State.issue_seq_uret (s : State) (w : Word) : (s.issue w).seq.uret = s.seq.uret := rfl
@[simp] theorem State.issue_seq_tbuf (s : State) (w : Word) : (s.issue w).seq.tbuf = s.seq.tbuf := rfl
@[simp] theorem State.issue_seq_nreq (s : State) (w : Word) : (s.issue w).seq.nreq = s.seq.nreq := rfl
@[simp] theorem State.issue_seq_adata (s : State) (w : Word) : (s.issue w).seq.adata = s.seq.adata := rfl
@[simp] theorem State.issue_seq_outcome (s : State) (w : Word) : (s.issue w).seq.outcome = .ok := rfl
@[simp] theorem State.issue_host (s : State) (w : Word) : (s.issue w).host = s.host := rfl
@[simp] theorem State.issue_trace (s : State) (w : Word) : (s.issue w).trace = s.trace := rfl
@[simp] theorem State.issue_draws (s : State) (w : Word) : (s.issue w).draws = s.draws := rfl

/-! #### complete -/

@[simp] theorem State.complete_build (s : State) (c : ErrKind) : (s.complete c).build = s.build := rfl
@[simp] theorem State.complete_gen (s : State) (c : ErrKind) : (s.complete c).gen = s.gen := rfl
@[simp] theorem State.complete_win_arg (s : State) (c : ErrKind) : (s.complete c).win.arg = 0 := rfl
@[simp] theorem State.complete_win_len0 (s : State) (c : ErrKind) : (s.complete c).win.len0 = 0 := rfl
@[simp] theorem State.complete_win_len1 (s : State) (c : ErrKind) : (s.complete c).win.len1 = 0 := rfl
@[simp] theorem State.complete_win_len2 (s : State) (c : ErrKind) : (s.complete c).win.len2 = 0 := rfl
@[simp] theorem State.complete_win_outLen (s : State) (c : ErrKind) : (s.complete c).win.outLen = s.win.outLen := rfl
@[simp] theorem State.complete_win_dbgCntLo (s : State) (c : ErrKind) : (s.complete c).win.dbgCntLo = s.win.dbgCntLo := rfl
@[simp] theorem State.complete_win_dbgCntHi (s : State) (c : ErrKind) : (s.complete c).win.dbgCntHi = s.win.dbgCntHi := rfl
@[simp] theorem State.complete_win_done (s : State) (c : ErrKind) : (s.complete c).win.done = true := rfl
@[simp] theorem State.complete_win_err (s : State) (c : ErrKind) : (s.complete c).win.err = c := rfl
@[simp] theorem State.complete_win_mem (s : State) (c : ErrKind) : (s.complete c).win.mem = (((s.clearBuf .in0).clearBuf .in1).clearBuf .in2).win.mem := rfl
@[simp] theorem State.complete_seq_phase (s : State) (c : ErrKind) : (s.complete c).seq.phase = .idle := rfl
@[simp] theorem State.complete_seq_lcmd (s : State) (c : ErrKind) : (s.complete c).seq.lcmd = s.seq.lcmd := rfl
@[simp] theorem State.complete_seq_udata (s : State) (c : ErrKind) : (s.complete c).seq.udata = none := rfl
@[simp] theorem State.complete_seq_uret (s : State) (c : ErrKind) : (s.complete c).seq.uret = s.seq.uret := rfl
@[simp] theorem State.complete_seq_tbuf (s : State) (c : ErrKind) : (s.complete c).seq.tbuf = [] := rfl
@[simp] theorem State.complete_seq_nreq (s : State) (c : ErrKind) : (s.complete c).seq.nreq = 0 := rfl
@[simp] theorem State.complete_seq_adata (s : State) (c : ErrKind) : (s.complete c).seq.adata = none := rfl
@[simp] theorem State.complete_seq_outcome (s : State) (c : ErrKind) : (s.complete c).seq.outcome = .ok := rfl
@[simp] theorem State.complete_host (s : State) (c : ErrKind) : (s.complete c).host = s.host := rfl
@[simp] theorem State.complete_trace (s : State) (c : ErrKind) : (s.complete c).trace = s.trace := rfl
@[simp] theorem State.complete_draws (s : State) (c : ErrKind) : (s.complete c).draws = s.draws := rfl

/-! #### goto -/

@[simp] theorem State.goto_build (s : State) (p : Phase) : (s.goto p).build = s.build := rfl
@[simp] theorem State.goto_gen (s : State) (p : Phase) : (s.goto p).gen = s.gen := rfl
@[simp] theorem State.goto_win (s : State) (p : Phase) : (s.goto p).win = s.win := rfl
@[simp] theorem State.goto_seq_phase (s : State) (p : Phase) : (s.goto p).seq.phase = p := rfl
@[simp] theorem State.goto_seq_lcmd (s : State) (p : Phase) : (s.goto p).seq.lcmd = s.seq.lcmd := rfl
@[simp] theorem State.goto_seq_udata (s : State) (p : Phase) : (s.goto p).seq.udata = s.seq.udata := rfl
@[simp] theorem State.goto_seq_uret (s : State) (p : Phase) : (s.goto p).seq.uret = s.seq.uret := rfl
@[simp] theorem State.goto_seq_tbuf (s : State) (p : Phase) : (s.goto p).seq.tbuf = s.seq.tbuf := rfl
@[simp] theorem State.goto_seq_nreq (s : State) (p : Phase) : (s.goto p).seq.nreq = s.seq.nreq := rfl
@[simp] theorem State.goto_seq_adata (s : State) (p : Phase) : (s.goto p).seq.adata = s.seq.adata := rfl
@[simp] theorem State.goto_seq_outcome (s : State) (p : Phase) : (s.goto p).seq.outcome = s.seq.outcome := rfl
@[simp] theorem State.goto_host (s : State) (p : Phase) : (s.goto p).host = s.host := rfl
@[simp] theorem State.goto_trace (s : State) (p : Phase) : (s.goto p).trace = s.trace := rfl
@[simp] theorem State.goto_draws (s : State) (p : Phase) : (s.goto p).draws = s.draws := rfl

/-! #### finishWith -/

@[simp] theorem State.finishWith_build (s : State) (c : ErrKind) : (s.finishWith c).build = s.build := rfl
@[simp] theorem State.finishWith_gen (s : State) (c : ErrKind) : (s.finishWith c).gen = s.gen := rfl
@[simp] theorem State.finishWith_win (s : State) (c : ErrKind) : (s.finishWith c).win = s.win := rfl
@[simp] theorem State.finishWith_seq_phase (s : State) (c : ErrKind) : (s.finishWith c).seq.phase = .complete := rfl
@[simp] theorem State.finishWith_seq_lcmd (s : State) (c : ErrKind) : (s.finishWith c).seq.lcmd = s.seq.lcmd := rfl
@[simp] theorem State.finishWith_seq_udata (s : State) (c : ErrKind) : (s.finishWith c).seq.udata = s.seq.udata := rfl
@[simp] theorem State.finishWith_seq_uret (s : State) (c : ErrKind) : (s.finishWith c).seq.uret = s.seq.uret := rfl
@[simp] theorem State.finishWith_seq_tbuf (s : State) (c : ErrKind) : (s.finishWith c).seq.tbuf = s.seq.tbuf := rfl
@[simp] theorem State.finishWith_seq_nreq (s : State) (c : ErrKind) : (s.finishWith c).seq.nreq = s.seq.nreq := rfl
@[simp] theorem State.finishWith_seq_adata (s : State) (c : ErrKind) : (s.finishWith c).seq.adata = s.seq.adata := rfl
@[simp] theorem State.finishWith_seq_outcome (s : State) (c : ErrKind) : (s.finishWith c).seq.outcome = c := rfl
@[simp] theorem State.finishWith_host (s : State) (c : ErrKind) : (s.finishWith c).host = s.host := rfl
@[simp] theorem State.finishWith_trace (s : State) (c : ErrKind) : (s.finishWith c).trace = s.trace := rfl
@[simp] theorem State.finishWith_draws (s : State) (c : ErrKind) : (s.finishWith c).draws = s.draws := rfl

/-! #### hostAdvance -/

@[simp] theorem State.hostAdvance_build (s : State) : (s.hostAdvance).build = s.build := rfl
@[simp] theorem State.hostAdvance_gen (s : State) : (s.hostAdvance).gen = s.gen := rfl
@[simp] theorem State.hostAdvance_win (s : State) : (s.hostAdvance).win = s.win := rfl
@[simp] theorem State.hostAdvance_seq (s : State) : (s.hostAdvance).seq = s.seq := rfl
@[simp] theorem State.hostAdvance_host (s : State) : (s.hostAdvance).host = { s.host with pc := s.host.pc + 1 } := rfl
@[simp] theorem State.hostAdvance_trace (s : State) : (s.hostAdvance).trace = s.trace := rfl
@[simp] theorem State.hostAdvance_draws (s : State) : (s.hostAdvance).draws = s.draws := rfl

/-! #### hostGoto -/

@[simp] theorem State.hostGoto_build (s : State) (t : Nat) : (s.hostGoto t).build = s.build := rfl
@[simp] theorem State.hostGoto_gen (s : State) (t : Nat) : (s.hostGoto t).gen = s.gen := rfl
@[simp] theorem State.hostGoto_win (s : State) (t : Nat) : (s.hostGoto t).win = s.win := rfl
@[simp] theorem State.hostGoto_seq (s : State) (t : Nat) : (s.hostGoto t).seq = s.seq := rfl
@[simp] theorem State.hostGoto_host (s : State) (t : Nat) : (s.hostGoto t).host = { s.host with pc := t } := rfl
@[simp] theorem State.hostGoto_trace (s : State) (t : Nat) : (s.hostGoto t).trace = s.trace := rfl
@[simp] theorem State.hostGoto_draws (s : State) (t : Nat) : (s.hostGoto t).draws = s.draws := rfl

/-! #### hostRecord -/

@[simp] theorem State.hostRecord_build (s : State) (off : Nat) (size : AccessSize) (x : Word) : (s.hostRecord off size x).build = s.build := rfl
@[simp] theorem State.hostRecord_gen (s : State) (off : Nat) (size : AccessSize) (x : Word) : (s.hostRecord off size x).gen = s.gen := rfl
@[simp] theorem State.hostRecord_win (s : State) (off : Nat) (size : AccessSize) (x : Word) : (s.hostRecord off size x).win = s.win := rfl
@[simp] theorem State.hostRecord_seq (s : State) (off : Nat) (size : AccessSize) (x : Word) : (s.hostRecord off size x).seq = s.seq := rfl
@[simp] theorem State.hostRecord_host (s : State) (off : Nat) (size : AccessSize) (x : Word) : (s.hostRecord off size x).host = { s.host with reads := s.host.reads ++ [{ off := off, size := size, value := x }] } := rfl
@[simp] theorem State.hostRecord_trace (s : State) (off : Nat) (size : AccessSize) (x : Word) : (s.hostRecord off size x).trace = s.trace := rfl
@[simp] theorem State.hostRecord_draws (s : State) (off : Nat) (size : AccessSize) (x : Word) : (s.hostRecord off size x).draws = s.draws := rfl

/-! #### resetBlock -/

@[simp] theorem State.resetBlock_build (s : State) : (s.resetBlock).build = s.build := rfl
@[simp] theorem State.resetBlock_gen (s : State) : (s.resetBlock).gen = Gen.reset := rfl
@[simp] theorem State.resetBlock_win (s : State) : (s.resetBlock).win = Window.reset := rfl
@[simp] theorem State.resetBlock_seq (s : State) : (s.resetBlock).seq = Sequencer.reset := rfl
@[simp] theorem State.resetBlock_host (s : State) : (s.resetBlock).host = s.host := rfl
@[simp] theorem State.resetBlock_trace (s : State) : (s.resetBlock).trace = s.trace := rfl
@[simp] theorem State.resetBlock_draws (s : State) : (s.resetBlock).draws = s.draws := rfl

/-! #### raiseError is completion -/

@[simp] theorem State.raiseError_eq (s : State) (e : ErrKind) : s.raiseError e = s.complete e := rfl

@[simp] theorem State.exhausted_iff (s : State) : s.exhausted = true ↔ s.gen.cnt = 0 := by simp [State.exhausted]

@[simp] theorem State.busy_iff (s : State) : s.busy = true ↔ s.seq.phase ≠ .idle := by simp [State.busy]

@[simp] theorem State.not_busy_iff (s : State) : s.busy = false ↔ s.seq.phase = .idle := by simp [State.busy]

end Sys2Proof.Machine
end

