-- ==== Sys2Proof/Laws/Ops.lean ====
section
/-! SUPPORT. What each shared operation does, once: provider results, the update engine, the generate loop, issue,
completion, the checks. -/

namespace Sys2Proof.Machine

open Sys2Proof.Config (Build)

/-! ### The provider -/

@[simp] theorem sha256_length (m : Bytes) : (sha256 m).length = 32 := by
  simp [sha256, ShaHalf.toBytes, bigEndian]

theorem digestLen_zero (b : Build) : b.digestLen 0 = 32 := rfl

/-- Every provider result has DL(variant) bytes (R145). -/
@[simp] theorem providerOf_length (b : Build) (var : BitVec 2) (k m : Bytes) :
    (providerOf b var k m).length = b.digestLen var := by
  unfold providerOf providerDigest
  split
  · next h => rw [h, digestLen_zero]; simp [hmacSha256, hmacPass]
  · simp

theorem State.hmac_eq (s : State) (k m : Bytes) : s.hmac k m = providerOf s.build s.gen.variant k m := rfl

theorem State.callEvent_eq (s : State) (m : Bytes) :
    s.callEvent m = providerEvent s.build s.gen.variant (s.gen.k, m) := rfl

/-- In a legal build an attached variant has 1 to 64 digest bytes (R6). -/
theorem digestLen_bounds {b : Build} {var : BitVec 2} (hb : b.wf = true) (ha : (b.variantInfo var).isSome = true) :
    1 ≤ b.digestLen var ∧ b.digestLen var ≤ 64 := by
  obtain ⟨info, hi⟩ := Option.isSome_iff_exists.mp ha
  unfold Build.digestLen
  rw [hi]
  simp only [Build.wf, Bool.and_eq_true, Config.VariantInfo.wf, Option.all_eq_true, decide_eq_true_eq,
    Config.dlMax] at hb
  obtain ⟨⟨⟨⟨⟨⟨-, h1⟩, h2⟩, h3⟩, -⟩, -⟩, -⟩ := hb
  unfold Build.variantInfo at hi
  split at hi
  · cases hi; decide
  · exact ⟨(h1 info hi).1, of_decide_eq_true (h1 info hi).2⟩
  · exact ⟨(h2 info hi).1, of_decide_eq_true (h2 info hi).2⟩
  · exact ⟨(h3 info hi).1, of_decide_eq_true (h3 info hi).2⟩

theorem Build.wf_maxInLen {b : Build} (hb : b.wf = true) : b.maxInLen ≤ 256 := by
  simp only [Build.wf, Bool.and_eq_true, decide_eq_true_eq] at hb
  exact hb.1.1.2

theorem Build.wf_maxOutLen {b : Build} (hb : b.wf = true) : b.maxOutLen ≤ 65536 := by
  simp only [Build.wf, Bool.and_eq_true, decide_eq_true_eq] at hb
  exact hb.1.2

theorem Inv.sound {s : State} (h : Inv s) : Sound s where
  build_wf := h.build_wf
  attached := h.attached
  k_length := h.k_length
  v_length := h.v_length
  mem_wf := h.mem_wf

/-! ### The update engine -/

@[simp] theorem orEmpty_none : orEmpty none = [] := rfl
@[simp] theorem orEmpty_some (b : Bytes) : orEmpty (some b) = b := rfl

/-- UPDATE(absent) is steps 1 and 2, UPDATE(present) steps 1, 2, 4 and 5 (R143). -/
theorem State.update_none (s : State) (ret : URet) : s.update ret none = (s.setUpdate ret none).updK0.updV0 := rfl

theorem State.update_some (s : State) (ret : URet) (d : Bytes) :
    s.update ret (some d) = (s.setUpdate ret (some d)).updK0.updV0.updK1.updV1 := rfl

/-- What UPDATE leaves alone. -/
theorem State.update_frame (s : State) (ret : URet) (d : Opt) :
    (s.update ret d).build = s.build ∧ (s.update ret d).win = s.win ∧ (s.update ret d).host = s.host ∧
      (s.update ret d).draws = s.draws ∧ (s.update ret d).seq = { s.seq with udata := d, uret := ret } ∧
      (s.update ret d).gen.inst = s.gen.inst ∧ (s.update ret d).gen.variant = s.gen.variant ∧
      (s.update ret d).gen.minEnt = s.gen.minEnt ∧ (s.update ret d).gen.cnt = s.gen.cnt := by
  cases d <;> exact ⟨rfl, rfl, rfl, rfl, rfl, rfl, rfl, rfl, rfl⟩

@[simp] theorem State.update_build (s : State) (ret : URet) (d : Opt) : (s.update ret d).build = s.build :=
  (s.update_frame ret d).1
@[simp] theorem State.update_win (s : State) (ret : URet) (d : Opt) : (s.update ret d).win = s.win :=
  (s.update_frame ret d).2.1
@[simp] theorem State.update_host (s : State) (ret : URet) (d : Opt) : (s.update ret d).host = s.host :=
  (s.update_frame ret d).2.2.1
@[simp] theorem State.update_draws (s : State) (ret : URet) (d : Opt) : (s.update ret d).draws = s.draws :=
  (s.update_frame ret d).2.2.2.1
@[simp] theorem State.update_phase (s : State) (ret : URet) (d : Opt) : (s.update ret d).seq.phase = s.seq.phase :=
  by cases d <;> rfl
@[simp] theorem State.update_lcmd (s : State) (ret : URet) (d : Opt) : (s.update ret d).seq.lcmd = s.seq.lcmd :=
  by cases d <;> rfl
@[simp] theorem State.update_tbuf (s : State) (ret : URet) (d : Opt) : (s.update ret d).seq.tbuf = s.seq.tbuf :=
  by cases d <;> rfl
@[simp] theorem State.update_nreq (s : State) (ret : URet) (d : Opt) : (s.update ret d).seq.nreq = s.seq.nreq :=
  by cases d <;> rfl
@[simp] theorem State.update_adata (s : State) (ret : URet) (d : Opt) : (s.update ret d).seq.adata = s.seq.adata :=
  by cases d <;> rfl
@[simp] theorem State.update_outcome (s : State) (ret : URet) (d : Opt) : (s.update ret d).seq.outcome = s.seq.outcome :=
  by cases d <;> rfl
@[simp] theorem State.update_udata (s : State) (ret : URet) (d : Opt) : (s.update ret d).seq.udata = d :=
  by cases d <;> rfl
@[simp] theorem State.update_uret (s : State) (ret : URet) (d : Opt) : (s.update ret d).seq.uret = ret :=
  by cases d <;> rfl
@[simp] theorem State.update_inst (s : State) (ret : URet) (d : Opt) : (s.update ret d).gen.inst = s.gen.inst :=
  (s.update_frame ret d).2.2.2.2.2.1
@[simp] theorem State.update_variant (s : State) (ret : URet) (d : Opt) :
    (s.update ret d).gen.variant = s.gen.variant :=
  (s.update_frame ret d).2.2.2.2.2.2.1
@[simp] theorem State.update_minEnt (s : State) (ret : URet) (d : Opt) : (s.update ret d).gen.minEnt = s.gen.minEnt :=
  (s.update_frame ret d).2.2.2.2.2.2.2.1
@[simp] theorem State.update_cnt (s : State) (ret : URet) (d : Opt) : (s.update ret d).gen.cnt = s.gen.cnt :=
  (s.update_frame ret d).2.2.2.2.2.2.2.2

/-- UPDATE leaves K and V of DL(VARIANT) bytes, whatever they were (R148). -/
theorem State.update_lengths (s : State) (ret : URet) (d : Opt) :
    (s.update ret d).gen.k.length = s.build.digestLen s.gen.variant ∧
      (s.update ret d).gen.v.length = s.build.digestLen s.gen.variant := by
  cases d <;> constructor <;> exact providerOf_length _ _ _ _

/-! ### The generate loop -/

/-- A property that every pass keeps holds after the loop. -/
theorem State.genLoop_induction {P : State → Prop} (fuel : Nat) (s : State) (h0 : P s)
    (hstep : ∀ t, P t → t.wantsBlock = true → P t.genBlock) : P (s.genLoop fuel) := by
  induction fuel generalizing s with
  | zero => exact h0
  | succ n ih =>
    unfold State.genLoop
    split
    · next h => exact ih _ (hstep s h0 h)
    · exact h0

/-- What the loop leaves alone: all but V, TBUF and the record of calls. -/
theorem State.genLoop_frame (fuel : Nat) (s : State) :
    (s.genLoop fuel).build = s.build ∧ (s.genLoop fuel).win = s.win ∧ (s.genLoop fuel).host = s.host ∧
    (s.genLoop fuel).draws = s.draws ∧ (s.genLoop fuel).gen.inst = s.gen.inst ∧
    (s.genLoop fuel).gen.variant = s.gen.variant ∧ (s.genLoop fuel).gen.minEnt = s.gen.minEnt ∧
    (s.genLoop fuel).gen.k = s.gen.k ∧ (s.genLoop fuel).gen.cnt = s.gen.cnt ∧
    (s.genLoop fuel).seq.phase = s.seq.phase ∧ (s.genLoop fuel).seq.lcmd = s.seq.lcmd ∧
    (s.genLoop fuel).seq.udata = s.seq.udata ∧ (s.genLoop fuel).seq.uret = s.seq.uret ∧
    (s.genLoop fuel).seq.nreq = s.seq.nreq ∧ (s.genLoop fuel).seq.adata = s.seq.adata ∧
    (s.genLoop fuel).seq.outcome = s.seq.outcome :=
  State.genLoop_induction
    (P := fun t => t.build = s.build ∧ t.win = s.win ∧ t.host = s.host ∧ t.draws = s.draws ∧ t.gen.inst = s.gen.inst ∧
      t.gen.variant = s.gen.variant ∧ t.gen.minEnt = s.gen.minEnt ∧ t.gen.k = s.gen.k ∧ t.gen.cnt = s.gen.cnt ∧
      t.seq.phase = s.seq.phase ∧ t.seq.lcmd = s.seq.lcmd ∧ t.seq.udata = s.seq.udata ∧ t.seq.uret = s.seq.uret ∧
      t.seq.nreq = s.seq.nreq ∧ t.seq.adata = s.seq.adata ∧ t.seq.outcome = s.seq.outcome) fuel s
    ⟨rfl, rfl, rfl, rfl, rfl, rfl, rfl, rfl, rfl, rfl, rfl, rfl, rfl, rfl, rfl, rfl⟩ fun _ h _ => h

@[simp] theorem State.genLoop_build (fuel : Nat) (s : State) : (s.genLoop fuel).build = s.build :=
  (s.genLoop_frame fuel).1
@[simp] theorem State.genLoop_win (fuel : Nat) (s : State) : (s.genLoop fuel).win = s.win :=
  (s.genLoop_frame fuel).2.1
@[simp] theorem State.genLoop_host (fuel : Nat) (s : State) : (s.genLoop fuel).host = s.host :=
  (s.genLoop_frame fuel).2.2.1
@[simp] theorem State.genLoop_draws (fuel : Nat) (s : State) : (s.genLoop fuel).draws = s.draws :=
  (s.genLoop_frame fuel).2.2.2.1
@[simp] theorem State.genLoop_inst (fuel : Nat) (s : State) : (s.genLoop fuel).gen.inst = s.gen.inst :=
  (s.genLoop_frame fuel).2.2.2.2.1
@[simp] theorem State.genLoop_variant (fuel : Nat) (s : State) : (s.genLoop fuel).gen.variant = s.gen.variant :=
  (s.genLoop_frame fuel).2.2.2.2.2.1
@[simp] theorem State.genLoop_minEnt (fuel : Nat) (s : State) : (s.genLoop fuel).gen.minEnt = s.gen.minEnt :=
  (s.genLoop_frame fuel).2.2.2.2.2.2.1
@[simp] theorem State.genLoop_k (fuel : Nat) (s : State) : (s.genLoop fuel).gen.k = s.gen.k :=
  (s.genLoop_frame fuel).2.2.2.2.2.2.2.1
@[simp] theorem State.genLoop_cnt (fuel : Nat) (s : State) : (s.genLoop fuel).gen.cnt = s.gen.cnt :=
  (s.genLoop_frame fuel).2.2.2.2.2.2.2.2.1
@[simp] theorem State.genLoop_phase (fuel : Nat) (s : State) : (s.genLoop fuel).seq.phase = s.seq.phase :=
  (s.genLoop_frame fuel).2.2.2.2.2.2.2.2.2.1
@[simp] theorem State.genLoop_lcmd (fuel : Nat) (s : State) : (s.genLoop fuel).seq.lcmd = s.seq.lcmd :=
  (s.genLoop_frame fuel).2.2.2.2.2.2.2.2.2.2.1
@[simp] theorem State.genLoop_udata (fuel : Nat) (s : State) : (s.genLoop fuel).seq.udata = s.seq.udata :=
  (s.genLoop_frame fuel).2.2.2.2.2.2.2.2.2.2.2.1
@[simp] theorem State.genLoop_uret (fuel : Nat) (s : State) : (s.genLoop fuel).seq.uret = s.seq.uret :=
  (s.genLoop_frame fuel).2.2.2.2.2.2.2.2.2.2.2.2.1
@[simp] theorem State.genLoop_nreq (fuel : Nat) (s : State) : (s.genLoop fuel).seq.nreq = s.seq.nreq :=
  (s.genLoop_frame fuel).2.2.2.2.2.2.2.2.2.2.2.2.2.1
@[simp] theorem State.genLoop_adata (fuel : Nat) (s : State) : (s.genLoop fuel).seq.adata = s.seq.adata :=
  (s.genLoop_frame fuel).2.2.2.2.2.2.2.2.2.2.2.2.2.2.1
@[simp] theorem State.genLoop_outcome (fuel : Nat) (s : State) : (s.genLoop fuel).seq.outcome = s.seq.outcome :=
  (s.genLoop_frame fuel).2.2.2.2.2.2.2.2.2.2.2.2.2.2.2

/-- What the pre-generation update leaves alone (R213). -/
theorem State.preUpdate_frame (s : State) (a : Opt) :
    (s.preUpdate a).build = s.build ∧ (s.preUpdate a).win = s.win ∧ (s.preUpdate a).host = s.host ∧
      (s.preUpdate a).draws = s.draws ∧ (s.preUpdate a).gen.inst = s.gen.inst ∧
      (s.preUpdate a).gen.variant = s.gen.variant ∧ (s.preUpdate a).gen.minEnt = s.gen.minEnt ∧
      (s.preUpdate a).gen.cnt = s.gen.cnt ∧ (s.preUpdate a).seq.lcmd = s.seq.lcmd ∧
      (s.preUpdate a).seq.tbuf = s.seq.tbuf ∧ (s.preUpdate a).seq.nreq = s.seq.nreq := by
  cases a with
  | none => exact ⟨rfl, rfl, rfl, rfl, rfl, rfl, rfl, rfl, rfl, rfl, rfl⟩
  | some d => simp [State.preUpdate]

/-- What a generate that passed its checks leaves alone (R217). -/
theorem State.generate_frame (s : State) (add : Bool) :
    (s.generate add).build = s.build ∧ (s.generate add).host = s.host ∧ (s.generate add).draws = s.draws ∧
      (s.generate add).seq.lcmd = s.seq.lcmd ∧ (s.generate add).gen.inst = s.gen.inst ∧
      (s.generate add).gen.variant = s.gen.variant ∧ (s.generate add).gen.minEnt = s.gen.minEnt ∧
      (s.generate add).gen.cnt = s.gen.cnt - 1 ∧ (s.generate add).seq.uret = .genPost ∧
      (s.generate add).win.outLen = s.win.arg ∧
      (s.generate add).win.dbgCntLo = s.win.dbgCntLo ∧ (s.generate add).win.dbgCntHi = s.win.dbgCntHi := by
  obtain ⟨hb, hw, hh, hd, hi, hv, hm, hc, hl, -, hn⟩ := (s.startGen (s.additionalInput add)).preUpdate_frame
    (s.additionalInput add)
  simp [State.generate, hb, hw, hh, hd, hi, hv, hm, hc, hl, hn]

/-! ### Issue and completion over memory -/

/-- After ISSUE every output byte reads 0x00 and every other byte as before (R261). -/
theorem State.issue_read (s : State) (w : Word) (a : Nat) :
    (s.issue w).win.mem.read a = if outputByte s.build a = true then 0 else s.win.mem.read a := by
  simp only [State.issue_win_mem, State.clearBuf_win_mem, State.clearBuf_build, Memory.read_clear, outputByte, Buf.holds,
    Bool.or_eq_true, Bool.and_eq_true, decide_eq_true_eq]
  split_ifs <;> first | rfl | (exfalso; tauto)

/-- After COMPLETE every operand byte reads 0x00 and every other byte as before (R262). -/
theorem State.complete_read (s : State) (c : ErrKind) (a : Nat) :
    (s.complete c).win.mem.read a = if inputByte s.build a = true then 0 else s.win.mem.read a := by
  simp only [State.complete_win_mem, State.clearBuf_win_mem, State.clearBuf_build, Memory.read_clear, inputByte, Buf.holds,
    Bool.or_eq_true, Bool.and_eq_true, decide_eq_true_eq]
  split_ifs <;> first | rfl | (exfalso; tauto)

theorem State.wf_issue {s : State} (w : Word) (h : s.win.mem.wf = true) : (s.issue w).win.mem.wf = true :=
  Memory.wf_clear _ _ (Memory.wf_clear _ _ (Memory.wf_clear _ _ h))

theorem State.wf_complete {s : State} (c : ErrKind) (h : s.win.mem.wf = true) : (s.complete c).win.mem.wf = true :=
  Memory.wf_clear _ _ (Memory.wf_clear _ _ (Memory.wf_clear _ _ h))

theorem State.mem_issue {s : State} {w : Word} {c : Host.Cell} (h : c ∈ (s.issue w).win.mem) : c ∈ s.win.mem :=
  Memory.mem_clear (Memory.mem_clear (Memory.mem_clear h))

theorem State.mem_complete {s : State} {e : ErrKind} {c : Host.Cell} (h : c ∈ (s.complete e).win.mem) :
    c ∈ s.win.mem :=
  Memory.mem_clear (Memory.mem_clear (Memory.mem_clear h))

/-- A completion from any state with the build, host, draws and LCMD of `s`. -/
theorem State.completed_complete {s x : State} (hb : x.build = s.build) (hh : x.host = s.host) (hd : x.draws = s.draws)
    (hl : x.seq.lcmd = s.seq.lcmd) (c : ErrKind) : Completed s (x.complete c) c where
  err := rfl
  done := rfl
  idle := rfl
  operands := ⟨rfl, rfl, rfl, rfl⟩
  inputs a ha := by rw [State.complete_read, hb, if_pos ha]
  hidden := ⟨rfl, rfl, rfl, rfl, rfl⟩
  lcmd := hl
  build := hb
  host := hh
  draws := hd

/-- A completion from a state whose window is that of `s` keeps the outputs. -/
theorem State.outputsKept_complete {s x : State} (hb : x.build = s.build) (hw : x.win = s.win) (c : ErrKind) :
    OutputsKept s (x.complete c) where
  outLen := by rw [State.complete_win_outLen, hw]
  dbgCntLo := by rw [State.complete_win_dbgCntLo, hw]
  dbgCntHi := by rw [State.complete_win_dbgCntHi, hw]
  bytes a ha := by rw [State.complete_read, hb, ha, hw]; rfl

/-- `raise E` only completes (R15, R264). -/
theorem State.raised_complete (s : State) (e : ErrKind) : Raised s (s.complete e) e where
  completed := State.completed_complete rfl rfl rfl rfl e
  outputs := State.outputsKept_complete rfl rfl e
  gen := rfl
  trace := rfl
  uret := rfl

/-! ### Storing a byte string in a buffer -/

theorem State.storeBuf_read_other (s : State) (f : Buf) (bs : Bytes) {a : Nat}
    (h : a < f.offset ∨ f.offset + min bs.length (f.size s.build) ≤ a) :
    (s.storeBuf f bs).win.mem.read a = s.win.mem.read a := by
  rw [State.storeBuf_win_mem, Memory.read_writeBytes_other]
  rw [List.length_take]
  omega

theorem State.storeBuf_read_inside {s : State} (f : Buf) (bs : Bytes) (hm : s.win.mem.wf = true) {j : Nat}
    (hj : j < bs.length) (hf : j < f.size s.build) :
    (s.storeBuf f bs).win.mem.read (f.offset + j) = bs[j] := by
  rw [State.storeBuf_win_mem, Memory.read_writeBytes_inside f.offset j _ hm (by rw [List.length_take]; omega)]
  exact List.getElem_take

theorem State.wf_storeBuf {s : State} (f : Buf) (bs : Bytes) (h : s.win.mem.wf = true) :
    (s.storeBuf f bs).win.mem.wf = true :=
  Memory.wf_writeBytes _ _ h

/-- Storing lists only bytes of the buffer anew. -/
theorem State.mem_storeBuf {s : State} {f : Buf} {bs : Bytes} {c : Host.Cell}
    (h : c ∈ (s.storeBuf f bs).win.mem) : f.holds s.build c.1 = true ∨ c ∈ s.win.mem := by
  rcases Memory.mem_writeBytes h with h | h
  · rw [List.length_take] at h
    exact .inl (by simp [Buf.holds]; omega)
  · exact .inr h

/-! ### Checks -/

theorem State.fits_iff (s : State) (x : Word) : s.fits x = true ↔ x.toNat ≤ s.build.maxInLen := by simp [State.fits]

/-- GEN's checks pass exactly under the conditions of R211. -/
theorem State.checkGen_none_iff (s : State) (add : Bool) : s.checkGen add = none ↔ GenReady s add := by
  unfold State.checkGen
  constructor
  · intro h
    split at h
    · cases h
    · next h1 =>
      split at h
      · cases h
      · next h2 =>
        split at h
        · cases h
        · next h3 =>
          simp only [Bool.or_eq_true, decide_eq_true_eq, Bool.and_eq_true, Bool.not_eq_true', not_or, not_and,
            State.fits, decide_eq_false_iff_not, not_not, gt_iff_lt, not_lt] at h1 h2
          exact ⟨by simpa using h1, h2.1.1, h2.1.2, h2.2, by simpa using h3⟩
  · rintro ⟨h1, h2, h3, h4, h5⟩
    have h5' : s.exhausted = false := by simpa [State.exhausted] using h5
    have h4' : (add && !s.fits s.win.len0) = false := by
      cases add
      · rfl
      · simpa [State.fits] using h4 rfl
    have h3' : ¬ s.build.maxOutLen < s.win.arg.toNat := by omega
    simp only [h1, h3', h4', h5', Bool.not_true, Bool.false_eq_true, if_false, decide_false, Bool.or_false,
      decide_eq_true_eq, if_neg h2]

/-- A GEN that passed its checks writes one result; anything else raises and only completes. -/
theorem execGen_cases (s : State) (add : Bool) :
    (GenReady s add ∧ execGen add s = .next ((s.generate add).complete .ok)) ∨
      (¬GenReady s add ∧ ∃ e, e ≠ .ok ∧ execGen add s = .next (s.complete e)) := by
  cases h : s.checkGen add with
  | none => exact .inl ⟨(s.checkGen_none_iff add).mp h, by simp [execGen, h]⟩
  | some e =>
    refine .inr ⟨fun hr => ?_, e, ?_, by simp [execGen, h]⟩
    · rw [(s.checkGen_none_iff add).mpr hr] at h; cases h
    · rintro rfl
      unfold State.checkGen at h
      split at h <;> first | cases h | (split at h <;> first | cases h | (split at h <;> cases h))

/-- An INST that passed its checks fixes some `m` of an attached variant; anything else raises and only completes. -/
theorem execInst_cases (s : State) (pers override : Bool) (var : BitVec 2) :
    (∃ info m, s.build.variantInfo var = some info ∧ s.instMinEnt override info.defMin = some m ∧
      execInst pers override var s =
        .next (((s.loadInstance var m).update .instSeed (some (s.instSeed pers))).complete .ok)) ∨
      ∃ e, e ≠ .ok ∧ execInst pers override var s = .next (s.complete e) := by
  unfold execInst
  cases h : s.checkInst pers override var with
  | error e =>
    refine .inr ⟨e, ?_, rfl⟩
    rintro rfl
    unfold State.checkInst at h
    repeat' first | cases h | split at h
  | ok m =>
    unfold State.checkInst at h
    split at h
    · cases h
    · split at h
      · cases h
      · next info hi =>
        split at h
        · cases h
        · next m' hm =>
          split at h
          · cases h
          · cases h
            exact .inl ⟨info, m, hi, hm, rfl⟩

/-- An RSD that passed its checks runs on an instance; anything else raises and only completes. -/
theorem execRsd_cases (s : State) :
    (s.gen.inst = true ∧ execRsd s = .next ((s.update .rsdSeed (some s.rsdSeed)).reloadCnt.complete .ok)) ∨
      ∃ e, e ≠ .ok ∧ execRsd s = .next (s.complete e) := by
  unfold execRsd
  cases h : s.checkRsd with
  | none =>
    refine .inl ⟨?_, rfl⟩
    unfold State.checkRsd at h
    split at h
    · cases h
    · next hi => simpa using hi
  | some e =>
    refine .inr ⟨e, ?_, rfl⟩
    rintro rfl
    unfold State.checkRsd at h
    repeat' first | cases h | split at h

/-- GENS is GEN and the two debug buffers, in a debug build (R225). -/
theorem execGens_cases (s : State) (add : Bool) :
    (s.build.debugAccess = true ∧ GenReady s add ∧ execGens add s = .next ((s.generate add).showKV.complete .ok)) ∨
      ((s.build.debugAccess = false ∨ ¬GenReady s add) ∧ ∃ e, e ≠ .ok ∧ execGens add s = .next (s.complete e)) := by
  cases hd : s.build.debugAccess with
  | false => exact .inr ⟨.inl rfl, .illegalCommand, by decide, by simp [execGens, hd]⟩
  | true =>
    cases h : s.checkGen add with
    | none => exact .inl ⟨rfl, (s.checkGen_none_iff add).mp h, by simp [execGens, hd, h]⟩
    | some e =>
      refine .inr ⟨.inr fun hr => ?_, e, ?_, by simp [execGens, hd, h]⟩
      · rw [(s.checkGen_none_iff add).mpr hr] at h; cases h
      · rintro rfl
        unfold State.checkGen at h
        repeat' first | cases h | split at h

end Sys2Proof.Machine
end

