-- ==== Sys2Proof/Laws/Step.lean ====
section
/-! SUPPORT. What a step can do, said once: who moves, what a bus access can answer, and that no step changes the build. -/

namespace Sys2Proof.Machine

open Host

/-! ### The arms of exec -/

@[simp] theorem exec_nop (s : State) : exec .nop s = .next (s.complete .ok) := rfl
@[simp] theorem exec_inst (p o : Bool) (v : BitVec 2) (s : State) : exec (.inst p o v) s = execInst p o v s := rfl
@[simp] theorem exec_gen (add : Bool) (s : State) : exec (.gen add) s = execGen add s := rfl
@[simp] theorem exec_rsd (s : State) : exec .rsd s = execRsd s := rfl
@[simp] theorem exec_gens (add : Bool) (s : State) : exec (.gens add) s = execGens add s := rfl
@[simp] theorem exec_rdst (s : State) : exec .rdst s = execRdst s := rfl
@[simp] theorem exec_zero (s : State) : exec .zero s = .next (s.wipe.complete .ok) := rfl

/-- RDST in either build (R121, R268). -/
theorem execRdst_cases (s : State) :
    (s.build.debugAccess = true ∧ execRdst s = .next (s.showKV.showCnt.complete .ok)) ∨
      (s.build.debugAccess = false ∧ execRdst s = .next (s.complete .illegalCommand)) := by
  cases h : s.build.debugAccess with
  | true => exact .inl ⟨rfl, by simp [execRdst, h]⟩
  | false => exact .inr ⟨rfl, by simp [execRdst, h]⟩

/-- Every command answers a completion, of `s` itself where it raises (R15) or of the state its rule writes. -/
theorem exec_cases (i : Instr) (s : State) :
    (∃ x : State, x.build = s.build ∧ x.host = s.host ∧ x.draws = s.draws ∧ x.seq.lcmd = s.seq.lcmd ∧
        exec i s = .next (x.complete .ok)) ∨
      ∃ e, e ≠ .ok ∧ exec i s = .next (s.complete e) := by
  cases i with
  | nop => exact .inl ⟨s, rfl, rfl, rfl, rfl, rfl⟩
  | zero => exact .inl ⟨s.wipe, rfl, rfl, rfl, rfl, rfl⟩
  | rdst =>
    rcases execRdst_cases s with ⟨-, he⟩ | ⟨-, he⟩
    · exact .inl ⟨s.showKV.showCnt, by simp, by simp, by simp, by simp, he⟩
    · exact .inr ⟨.illegalCommand, by decide, he⟩
  | inst p o v =>
    rcases execInst_cases s p o v with ⟨_, m, -, -, he⟩ | ⟨e, hne, he⟩
    · exact .inl ⟨_, by simp, by simp, by simp, by simp, he⟩
    · exact .inr ⟨e, hne, he⟩
  | rsd =>
    rcases execRsd_cases s with ⟨-, he⟩ | ⟨e, hne, he⟩
    · exact .inl ⟨_, by simp, by simp, by simp, by simp, he⟩
    · exact .inr ⟨e, hne, he⟩
  | gen add =>
    have hf := s.generate_frame add
    rcases execGen_cases s add with ⟨-, he⟩ | ⟨-, e, hne, he⟩
    · exact .inl ⟨s.generate add, hf.1, hf.2.1, hf.2.2.1, hf.2.2.2.1, he⟩
    · exact .inr ⟨e, hne, he⟩
  | gens add =>
    have hf := s.generate_frame add
    rcases execGens_cases s add with ⟨-, -, he⟩ | ⟨-, e, hne, he⟩
    · exact .inl ⟨(s.generate add).showKV, hf.1, hf.2.1, hf.2.2.1, hf.2.2.2.1, he⟩
    · exact .inr ⟨e, hne, he⟩

/-! ### Bus accesses -/

/-- A read that answers a value left all but the count of draws alone (R88, R89). -/
theorem busRead_next {off : Nat} {size : AccessSize} {s t : State} {x : Word}
    (h : busRead off size s = .next (x, t)) :
    (s.busy = false ∧ x = s.peek off size ∧ t = s) ∨
      (s.busy = true ∧ x = s.peekWhileBusy off size ∧ t = { s with draws := s.draws + 1 }) := by
  unfold busRead at h
  split at h
  · cases h
  · split at h
    · cases h
    · split at h
      · next hb => cases h; exact .inr ⟨hb, rfl, rfl⟩
      · next hb => cases h; exact .inl ⟨by simpa using hb, rfl, rfl⟩

/-- Writing lanes changes operand bytes only. -/
theorem State.writeLanes_frame (off : Nat) (x : Word) (is : List Nat) (s : State) :
    (s.writeLanes off x is).build = s.build ∧ (s.writeLanes off x is).gen = s.gen ∧
      (s.writeLanes off x is).seq = s.seq ∧ (s.writeLanes off x is).host = s.host ∧
      (s.writeLanes off x is).trace = s.trace ∧ (s.writeLanes off x is).draws = s.draws ∧
      (∃ m, (s.writeLanes off x is).win = { s.win with mem := m }) := by
  induction is generalizing s with
  | nil => exact ⟨rfl, rfl, rfl, rfl, rfl, rfl, s.win.mem, rfl⟩
  | cons i is ih =>
    unfold State.writeLanes
    split
    · exact ih _
    · exact ih s

/-- A write that answers a next state issued a command, or wrote an operand register or operand bytes, or was ignored. -/
theorem busWrite_next {off : Nat} {size : AccessSize} {x : Word} {s t : State}
    (h : busWrite off size x s = .next t) :
    (off = Reg.cmd.offset ∧ s.busy = false ∧ startCommand x s = .next t) ∨
      (∃ r, regAt off = some r ∧ r ≠ .cmd ∧ (r.isOperand = true → s.busy = false) ∧ t = s.writeReg r x) ∨
      (regAt off = none ∧ (s.busy = true → (accessOffsets off size).any (inputByte s.build) = false) ∧
        t = s.writeLanes off x (List.range size.bytes)) := by
  unfold busWrite at h
  split at h
  · cases h
  · split at h
    · cases h
    · split at h
      · next r hr =>
        split at h
        · cases h
        · next hb =>
          split at h
          · next hc =>
            subst hc
            refine .inl ⟨?_, by simpa [Reg.isOperand] using hb, h⟩
            unfold regAt at hr
            split at hr <;> first | rfl | cases hr
          · next hc =>
            cases h
            exact .inr (.inl ⟨r, hr, hc, fun ho => by simpa [ho] using hb, rfl⟩)
      · next hr =>
        split at h
        · cases h
        · next hb =>
          cases h
          exact .inr (.inr ⟨hr, fun hbusy => by simpa [hbusy] using hb, rfl⟩)

/-! ### Who moves -/

/-- A step is the move of one agent, with the turn it used taken off the list. -/
theorem step_turn (s : State) :
    ∃ t ts, step s = takeTurn t { s with host := { s.host with turns := ts } } := by
  unfold step nextMove
  split
  · next h => exact ⟨s.defaultTurn, [], by rw [← h]⟩
  · next t ts h => exact ⟨t, ts, rfl⟩

/-- The host's move with no turn listed and no command running. -/
theorem HostReady.step_eq {s : State} {st : HostStmt} (h : HostReady s st) : step s = hostExec st s := by
  unfold step nextMove
  rw [h.no_turns]
  simp only [State.defaultTurn, h.idle, Bool.false_eq_true, if_false, takeTurn, hostStep, h.at_pc]

/-- While a command runs and no turn is listed, the sequencer moves. -/
theorem step_busy {s : State} (ht : s.host.turns = []) (hb : s.busy = true) : step s = .next (seqStep s) := by
  unfold step nextMove
  rw [ht]
  simp only [State.defaultTurn, hb, if_true, takeTurn]

/-! ### The build is fixed -/

theorem exec_build {i : Instr} {s t : State} (h : exec i s = .next t) : t.build = s.build := by
  rcases exec_cases i s with ⟨x, hb, -, -, -, he⟩ | ⟨e, -, he⟩ <;> rw [he] at h <;> cases h
  · exact hb
  · rfl

end Sys2Proof.Machine
end

