-- ==== Sys2Proof/Laws/Window.lean ====
section
/-! SUPPORT. The window's map and the host's accesses to it: which bytes are whose, which accesses are admitted, what a read
of a register gives, what a write of lanes stores. -/

namespace Sys2Proof.Machine

open Host
open Sys2Proof.Config (Build)

/-! ### Buffers -/

theorem Buf.holds_iff (b : Build) (f : Buf) (a : Nat) :
    f.holds b a = true ↔ f.offset ≤ a ∧ a < f.offset + f.size b := by simp [Buf.holds]

theorem Buf.not_holds_iff (b : Build) (f : Buf) (a : Nat) :
    f.holds b a = false ↔ a < f.offset ∨ f.offset + f.size b ≤ a := by
  rw [← Bool.not_eq_true, Buf.holds_iff]
  omega

theorem Buf.not_firstBytes_iff (f : Buf) (n a : Nat) :
    f.firstBytes n a = false ↔ a < f.offset ∨ f.offset + n ≤ a := by
  rw [← Bool.not_eq_true]
  simp only [Buf.firstBytes, Bool.and_eq_true, decide_eq_true_eq]
  omega

theorem bufferByte_of_holds {b : Build} {f : Buf} {a : Nat} (h : f.holds b a = true) : bufferByte b a = true := by
  cases f <;> simp [bufferByte, inputByte, outputByte, h]

/-- The operand buffers end below 0x700. -/
theorem not_inputByte {b : Build} (hb : b.wf = true) {a : Nat} (ha : 0x700 ≤ a) : inputByte b a = false := by
  have := Build.wf_maxInLen hb
  simp only [inputByte, Bool.or_eq_false_iff, Buf.not_holds_iff, Buf.offset, Buf.size]
  omega

/-- The output buffers start at 0x700. -/
theorem not_outputByte {b : Build} {a : Nat} (ha : a < 0x700) : outputByte b a = false := by
  simp only [outputByte, Bool.or_eq_false_iff, Buf.not_holds_iff, Buf.offset]
  omega

/-- An operand byte lies past the control registers and below the output buffers. -/
theorem inputByte_bounds {b : Build} (hb : b.wf = true) {a : Nat} (h : inputByte b a = true) :
    0x400 ≤ a ∧ a < 0x700 := by
  have := Build.wf_maxInLen hb
  simp only [inputByte, Bool.or_eq_true, Buf.holds_iff, Buf.offset, Buf.size] at h
  omega

/-- A buffer's byte lies past the control registers and in the window. -/
theorem bufferByte_bounds {b : Build} (hb : b.wf = true) {a : Nat} (h : bufferByte b a = true) :
    0x400 ≤ a ∧ a < 0x11000 := by
  have := Build.wf_maxInLen hb
  have := Build.wf_maxOutLen hb
  simp only [bufferByte, inputByte, outputByte, Bool.or_eq_true, Buf.holds_iff, Buf.offset, Buf.size, Config.dlMax] at h
  omega

/-- No byte of OUT is a byte of the debug buffers. -/
theorem not_debug_of_out {b : Build} {a : Nat} (h : Buf.out.holds b a = true) :
    Buf.dbgK.holds b a = false ∧ Buf.dbgV.holds b a = false := by
  simp only [Buf.holds_iff, Buf.not_holds_iff, Buf.offset, Buf.size, Config.dlMax] at *
  omega

/-! ### Accesses -/

theorem AccessSize.bytes_bounds (size : AccessSize) : 1 ≤ size.bytes ∧ size.bytes ≤ 4 := by cases size <;> decide

theorem inWindow_iff (off : Nat) : inWindow off = true ↔ off < 0x11000 := by
  unfold inWindow Config.windowSize
  exact decide_eq_true_iff

theorem accessOffsets_any_iff (off : Nat) (size : AccessSize) (p : Nat → Bool) :
    (accessOffsets off size).any p = true ↔ ∃ i, i < size.bytes ∧ p (off + i) = true := by
  simp [accessOffsets]

theorem accessOffsets_none_iff (off : Nat) (size : AccessSize) (p : Nat → Bool) :
    (accessOffsets off size).any p = false ↔ ∀ i, i < size.bytes → p (off + i) = false := by
  simp [accessOffsets]

/-- Which accesses R86 admits. -/
theorem admitted_iff (off : Nat) (size : AccessSize) :
    admitted off size = true ↔ off % size.bytes = 0 ∧ (off < 0x28 → size = .word) := by
  unfold admitted controlEnd
  split
  · next h => cases size <;> simp [h, AccessSize.bytes]
  · next h => simp [h]

/-- An admitted access that starts in the window lies in it whole. -/
theorem end_le_of_aligned {off : Nat} {size : AccessSize} (h : off < 0x11000) (ha : off % size.bytes = 0) :
    off + size.bytes ≤ 0x11000 := by
  cases size <;> simp only [AccessSize.bytes] at * <;> omega

theorem regAt_above {off : Nat} (h : 0x28 ≤ off) : regAt off = none := by
  unfold regAt
  split <;> first | omega | rfl

/-- A word access at a register's offset is admitted and reaches that register (R40, R86). -/
theorem Reg.access (r : Reg) : inWindow r.offset = true ∧ admitted r.offset .word = true ∧
    regAt r.offset = some r ∧ r.offset < controlEnd := by
  cases r <;> exact ⟨by decide, rfl, rfl, by decide⟩

/-- An admitted read past the control registers while BUSY is 0 (R84, R88). -/
theorem busRead_above {s : State} {off : Nat} {size : AccessSize} (hb : s.busy = false) (h1 : 0x28 ≤ off)
    (h2 : off < 0x11000) (ha : off % size.bytes = 0) :
    busRead off size s = .next (valueOfLanes ((accessOffsets off size).map s.byteAt), s) := by
  have hw := (inWindow_iff off).mpr h2
  have had := (admitted_iff off size).mpr ⟨ha, fun h => absurd h1 (by omega)⟩
  have hlow : ¬ off < controlEnd := by unfold controlEnd; omega
  simp [busRead, hw, had, hb, State.peek, hlow]

/-- A word read of a register while BUSY is 0 (R88). -/
theorem busRead_reg (s : State) (r : Reg) (h : s.busy = false) :
    busRead r.offset .word s = .next (s.readReg r, s) := by
  obtain ⟨h1, h2, h3, h4⟩ := r.access
  simp only [busRead, h1, h2, h, State.peek, h3, h4]
  simp

/-! ### Lanes -/

theorem getLsbD_valueOfLanes_laneOf (x : Word) (n i : Nat) (hi : i < 32) :
    (valueOfLanes ((List.range n).map (laneOf x))).getLsbD i = (decide (i < 8 * n) && x.getLsbD i) := by
  have key : ∀ (m n i : Nat), i < 32 → (valueOfLanes ((List.range' m n).map (laneOf x))).getLsbD i =
      (decide (i < 8 * n) && x.getLsbD (8 * m + i)) := by
    intro m n
    induction n generalizing m with
    | zero => intro i _; simp [valueOfLanes]
    | succ n ih =>
      intro i hi
      simp only [List.range'_succ, List.map_cons, valueOfLanes, BitVec.getLsbD_or, BitVec.getLsbD_shiftLeft, laneOf,
        BitVec.getLsbD_setWidth, BitVec.getLsbD_ushiftRight]
      by_cases h : i < 8
      · have : i < 8 * (n + 1) := by omega
        simp [h, hi, this]
      · rw [ih _ _ (by omega)]
        have e : 8 * (m + 1) + (i - 8) = 8 * m + i := by omega
        have : (i - 8 < 8 * n) ↔ (i < 8 * (n + 1)) := by omega
        simp [h, hi, e, this]
  rw [List.range_eq_range', key 0 n i hi]
  simp

/-- Lanes written and read back give the low bytes of the value (R84). -/
theorem valueOfLanes_laneOf (size : AccessSize) (x : Word) :
    valueOfLanes ((List.range size.bytes).map (laneOf x)) = BitVec.ofNat 32 (x.toNat % 2 ^ (8 * size.bytes)) := by
  apply BitVec.eq_of_getLsbD_eq
  intro i hi
  rw [getLsbD_valueOfLanes_laneOf _ _ _ hi, BitVec.getLsbD_ofNat, Nat.testBit_mod_two_pow, BitVec.testBit_toNat]
  simp [hi]

/-- Lane `i` of a value made of lanes (R84). -/
theorem extractLsb'_valueOfLanes (bs : Bytes) (i : Nat) (hi : i < bs.length) (h4 : bs.length ≤ 4) :
    (valueOfLanes bs).extractLsb' (8 * i) 8 = bs[i] := by
  induction bs generalizing i with
  | nil => simp at hi
  | cons b bs ih =>
    simp only [List.length_cons] at hi h4
    apply BitVec.eq_of_getLsbD_eq
    intro j hj
    simp only [valueOfLanes, BitVec.getLsbD_extractLsb', BitVec.getLsbD_or, BitVec.getLsbD_setWidth,
      BitVec.getLsbD_shiftLeft, hj, decide_true, Bool.true_and]
    cases i with
    | zero => simp [hj, show j < 32 by omega]
    | succ i =>
      have e := congrArg (fun x => x.getLsbD j) (ih i (by omega) (by omega))
      simp only [BitVec.getLsbD_extractLsb', hj, decide_true, Bool.true_and] at e
      rw [BitVec.getLsbD_of_ge b _ (by omega), show 8 * (i + 1) + j - 8 = 8 * i + j by omega, e]
      simp [show 8 * (i + 1) + j < 32 by omega, show ¬ 8 * (i + 1) + j < 8 by omega]

/-- A value made of lanes has no bit above them. -/
theorem valueOfLanes_lt (bs : Bytes) (h4 : bs.length ≤ 4) : (valueOfLanes bs).toNat < 2 ^ (8 * bs.length) := by
  induction bs with
  | nil => decide
  | cons b bs ih =>
    simp only [List.length_cons] at h4 ⊢
    have h := ih (by omega)
    have hb := b.isLt
    simp only [valueOfLanes, BitVec.toNat_or, BitVec.toNat_setWidth, BitVec.toNat_shiftLeft]
    refine Nat.or_lt_two_pow (lt_of_le_of_lt (Nat.mod_le _ _) (lt_of_lt_of_le hb (Nat.pow_le_pow_right (by decide) (by omega))))
      (lt_of_le_of_lt (Nat.mod_le _ _) ?_)
    rw [Nat.shiftLeft_eq, show 8 * (bs.length + 1) = 8 * bs.length + 8 by ring, Nat.pow_add]
    exact Nat.mul_lt_mul_of_pos_right h (by decide)

theorem valueOfLanes_zeros (n : Nat) : valueOfLanes (List.replicate n 0) = 0 := by
  induction n with
  | zero => rfl
  | succ n ih => rw [List.replicate_succ, valueOfLanes, ih]; rfl

/-- Writing lanes over no operand byte changes nothing (R85, R87). -/
theorem State.writeLanes_ignored (off : Nat) (x : Word) (is : List Nat) (s : State)
    (h : ∀ i ∈ is, inputByte s.build (off + i) = false) : s.writeLanes off x is = s := by
  induction is generalizing s with
  | nil => rfl
  | cons i is ih =>
    unfold State.writeLanes
    rw [h i (by simp)]
    exact ih s fun j hj => h j (by simp [hj])

/-- Writing lanes over operand bytes stores each lane at its own offset and nowhere else, and keeps the canonical form. -/
theorem State.writeLanes_read (off : Nat) (x : Word) (is : List Nat) (s : State) (hm : s.win.mem.wf = true)
    (hn : is.Nodup) (hin : ∀ i ∈ is, inputByte s.build (off + i) = true) :
    (s.writeLanes off x is).win.mem.wf = true ∧
      (∀ i ∈ is, (s.writeLanes off x is).win.mem.read (off + i) = laneOf x i) ∧
      ∀ a, (∀ i ∈ is, a ≠ off + i) → (s.writeLanes off x is).win.mem.read a = s.win.mem.read a := by
  induction is generalizing s with
  | nil => exact ⟨hm, by simp, fun _ _ => rfl⟩
  | cons i is ih =>
    unfold State.writeLanes
    rw [if_pos (hin i (by simp))]
    have hnd := List.nodup_cons.mp hn
    obtain ⟨a1, a2, a3⟩ := ih { s with win.mem := s.win.mem.write (off + i) (laneOf x i) }
      (Memory.wf_write _ _ hm) hnd.2 fun j hj => hin j (by simp [hj])
    refine ⟨a1, fun j hj => ?_, fun a ha => ?_⟩
    · rcases List.mem_cons.mp hj with rfl | hj
      · rw [a3 _ fun k hk => by have : j ≠ k := fun h => hnd.1 (h ▸ hk); omega]
        exact Memory.read_write_same _ _ hm
      · exact a2 j hj
    · rw [a3 a fun j hj => ha j (by simp [hj])]
      exact Memory.read_write_other _ _ (ha i (by simp))

end Sys2Proof.Machine
end

