-- ==== Sys2Proof/Laws/Generate.lean ====
section
/-! SUPPORT. The generate loop as so many passes of GEN_BLOCK, the lengths of what it makes, and what the writes of OUT,
DBG_K and DBG_V leave alone. -/

namespace Sys2Proof.Machine

open Sys2Proof.Config (Build)

/-- `j` blocks of `d` bytes are too few for `n` bytes exactly when `j < ceil(n / d)`. -/
theorem mul_lt_iff_lt_ceilDiv {d : Nat} (j n : Nat) (hd : 1 ≤ d) : j * d < n ↔ j < ceilDiv n d := by
  unfold ceilDiv
  have h : j < (n + d - 1) / d ↔ (j + 1) * d ≤ n + d - 1 := Nat.le_div_iff_mul_le (by omega)
  rw [h, show (j + 1) * d = j * d + d by ring]
  omega

theorem ceilDiv_le {n d : Nat} (hd : 1 ≤ d) : ceilDiv n d ≤ n := by
  by_contra h
  have := (mul_lt_iff_lt_ceilDiv n n hd).mpr (by omega)
  nlinarith

theorem blocks_succ (H : Bytes → Bytes → Bytes) (k v : Bytes) (j : Nat) :
    Drbg.blocks H k v (j + 1) = Drbg.blocks H k v j ++ Drbg.chainValue H k v (j + 1) := by
  simp [Drbg.blocks, List.range_succ]

@[simp] theorem blocks_length (b : Build) (var : BitVec 2) (k v : Bytes) (j : Nat) :
    (Drbg.blocks (providerOf b var) k v j).length = j * b.digestLen var := by
  induction j with
  | zero => simp [Drbg.blocks]
  | succ j ih =>
    rw [blocks_succ, List.length_append, ih]
    simp [Drbg.chainValue]
    ring

/-- `j` passes of GEN_BLOCK from an empty TBUF (R153, R214). -/
theorem genBlock_iterate (s : State) (ht : s.seq.tbuf = []) (j : Nat) :
    (State.genBlock^[j] s).gen.v = Drbg.chainValue (providerOf s.build s.gen.variant) s.gen.k s.gen.v j ∧
      (State.genBlock^[j] s).gen.k = s.gen.k ∧ (State.genBlock^[j] s).gen.variant = s.gen.variant ∧
      (State.genBlock^[j] s).build = s.build ∧ (State.genBlock^[j] s).seq.nreq = s.seq.nreq ∧
      (State.genBlock^[j] s).seq.tbuf = Drbg.blocks (providerOf s.build s.gen.variant) s.gen.k s.gen.v j ∧
      (State.genBlock^[j] s).trace = s.trace ++ ((List.range j).map fun i =>
        (s.gen.k, Drbg.chainValue (providerOf s.build s.gen.variant) s.gen.k s.gen.v i)).map
          (providerEvent s.build s.gen.variant) := by
  induction j with
  | zero => simp [Drbg.chainValue, Drbg.blocks, ht]
  | succ j ih =>
    obtain ⟨h1, h2, h3, h4, h5, h6, h7⟩ := ih
    rw [Function.iterate_succ_apply']
    simp only [State.genBlock_gen_v, State.genBlock_gen_k, State.genBlock_gen_variant, State.genBlock_build,
      State.genBlock_seq_nreq, State.genBlock_seq_tbuf, State.genBlock_trace, State.hmac_eq, State.callEvent_eq,
      h1, h2, h3, h4, h5, h6, h7]
    refine ⟨rfl, trivial, trivial, trivial, trivial, ?_, ?_⟩
    · rw [blocks_succ]; rfl
    · simp only [List.range_succ, List.map_append, List.map_cons, List.map_nil, List.append_assoc]

/-- The loop is `ceil(NREQ / DL)` passes of GEN_BLOCK (R153, R214). -/
theorem genLoop_eq_iterate (s : State) (ht : s.seq.tbuf = []) (hd : 1 ≤ s.build.digestLen s.gen.variant) :
    s.genLoop s.seq.nreq.toNat =
      State.genBlock^[ceilDiv s.seq.nreq.toNat (s.build.digestLen s.gen.variant)] s := by
  have key : ∀ fuel j, j ≤ ceilDiv s.seq.nreq.toNat (s.build.digestLen s.gen.variant) →
      ceilDiv s.seq.nreq.toNat (s.build.digestLen s.gen.variant) ≤ j + fuel →
      State.genLoop fuel (State.genBlock^[j] s) =
        State.genBlock^[ceilDiv s.seq.nreq.toNat (s.build.digestLen s.gen.variant)] s := by
    intro fuel
    induction fuel with
    | zero => intro j h1 h2; rw [Nat.le_antisymm h1 (by simpa using h2)]; rfl
    | succ f ih =>
      intro j h1 h2
      obtain ⟨-, -, -, -, hn, htb, -⟩ := genBlock_iterate s ht j
      unfold State.genLoop State.wantsBlock
      rw [hn, htb, blocks_length]
      split
      · next h =>
        have h : j * s.build.digestLen s.gen.variant < s.seq.nreq.toNat := by simpa using h
        rw [mul_lt_iff_lt_ceilDiv _ _ hd] at h
        rw [← Function.iterate_succ_apply' State.genBlock]
        exact ih (j + 1) h (by omega)
      · next h =>
        have h : ¬ j * s.build.digestLen s.gen.variant < s.seq.nreq.toNat := by simpa using h
        rw [mul_lt_iff_lt_ceilDiv _ _ hd] at h
        rw [Nat.le_antisymm h1 (by omega)]
  exact key s.seq.nreq.toNat 0 (Nat.zero_le _) (by rw [Nat.zero_add]; exact ceilDiv_le hd)

/-- A generate writes no window byte but OUT's (R216). -/
theorem State.generate_read_other (s : State) (add : Bool) {a : Nat} (h : Buf.out.holds s.build a = false) :
    (s.generate add).win.mem.read a = s.win.mem.read a := by
  obtain ⟨hb, hw, -⟩ := (s.startGen (s.additionalInput add)).preUpdate_frame (s.additionalInput add)
  unfold State.generate
  simp only [State.decrementCnt_win, State.update_win, State.genTrunc_win_mem]
  rw [State.storeBuf_read_other]
  · simp [hw]
  · rw [Buf.not_holds_iff] at h
    simp only [State.genLoop_build, hb, State.startGen_build]
    omega

/-- `showKV` writes no byte but the debug buffers' (R225, R268). -/
theorem State.showKV_read_other (s : State) {a : Nat} (h : Buf.dbgK.holds s.build a = false)
    (h' : Buf.dbgV.holds s.build a = false) : s.showKV.win.mem.read a = s.win.mem.read a := by
  show ((s.storeBuf .dbgK _).storeBuf .dbgV _).win.mem.read a = _
  rw [Buf.not_holds_iff] at h h'
  rw [State.storeBuf_read_other, State.storeBuf_read_other] <;> try simp only [State.storeBuf_build]
  all_goals omega

end Sys2Proof.Machine
end

