-- ==== Sys2Proof/Laws/PerInstr.lean ====
section
/-! SUPPORT. What holds of every command as syntax, one lemma a constructor. -/

namespace Sys2Proof.Laws

/-- The command's word selects the command's own row of R116 and no other row. -/
def SelectsOwnRow.Statement (i : Instr) : Prop :=
  i.row ∈ tableRows ∧ ∀ r ∈ tableRows, r.selects (encode i) = true ↔ r = i.row

theorem SelectsOwnRow.nop : SelectsOwnRow.Statement .nop := by unfold SelectsOwnRow.Statement; decide

theorem SelectsOwnRow.inst (pers override : Bool) (var : BitVec 2) : SelectsOwnRow.Statement (.inst pers override var) := by
  unfold SelectsOwnRow.Statement; revert pers override var; decide

theorem SelectsOwnRow.gen (add : Bool) : SelectsOwnRow.Statement (.gen add) := by unfold SelectsOwnRow.Statement; revert add; decide

theorem SelectsOwnRow.rsd : SelectsOwnRow.Statement .rsd := by unfold SelectsOwnRow.Statement; decide

theorem SelectsOwnRow.gens (add : Bool) : SelectsOwnRow.Statement (.gens add) := by unfold SelectsOwnRow.Statement; revert add; decide

theorem SelectsOwnRow.rdst : SelectsOwnRow.Statement .rdst := by unfold SelectsOwnRow.Statement; decide

theorem SelectsOwnRow.zero : SelectsOwnRow.Statement .zero := by unfold SelectsOwnRow.Statement; decide

end Sys2Proof.Laws
end

