-- ==== Sys2Proof/Tests/Slice0.lean ====
section
/-! SUPPORT. The model's own tests: ill-formed commands, words written out from 30_encoding.md, one step on a small state for
each command with values of 95_test_vectors.md, and for each statement with hypotheses a state that meets them. -/

namespace Sys2Proof.Tests

open Host Sys2Proof.Machine

/-! ### Helpers -/

/-- The state after an outcome that goes on. -/
def after : Outcome State Fault Refusal → Option State
  | .next t => some t
  | .fault _ => none
  | .refused _ => none

/-- `len` bytes from a number, the most significant first: a hexadecimal string of the vectors. -/
def hexBytes (n len : Nat) : Bytes := (List.range len).map fun i => BitVec.ofNat 8 (n / 256 ^ (len - 1 - i))

/-- The bytes `from_`, `from_ + 1`, … -/
def countUp (from_ len : Nat) : Bytes := (List.range len).map fun i => BitVec.ofNat 8 (from_ + i)

/-- K of S0 (95_test_vectors.md section 2.1). -/
def k0 : Bytes := hexBytes 0x345c7f099d0c4adce91379b6e2e03edfd4c2fa0b874e7a5b3cf24fb11f6ed4f1 32

/-- V of S0. -/
def v0 : Bytes := hexBytes 0x976b4836a5b3d828293e26900371f2d49e5a11754c0a45c9cc4c8fe921014a03 32

/-- S0 (95_test_vectors.md section 2.1), in the default build. -/
def s0 : State :=
  { State.reset with gen := { inst := true, variant := 0, minEnt := 24, k := k0, v := v0, cnt := 0x0001000000000000 } }

/-- `s` with ARG, LEN0, LEN1 and LEN2. -/
def withOperands (arg len0 len1 len2 : Word) (s : State) : State :=
  { s with win.arg := arg, win.len0 := len0, win.len1 := len1, win.len2 := len2 }

/-- `s` with CNT. -/
def withCnt (c : BitVec 64) (s : State) : State := { s with gen.cnt := c }

/-- The operands of the INST of section 2.1: E32 and N16. -/
def instOperands (s : State) : State :=
  ((withOperands 0 32 16 0 s).storeBuf .in0 (countUp 0x00 32)).storeBuf .in1 (countUp 0x20 16)

/-- `s` about to run one host statement. -/
def about (st : HostStmt) (s : State) : State := s.loadProgram [st]

/-- `s` at micro grain. -/
def atMicro (s : State) : State := { s with host.grain := .micro }

/-- `s` in a phase of the sequencer. -/
def inPhase (p : Phase) (s : State) : State := s.goto p

/-- A build with another variant 1 and the entropy check on. -/
def otherBuild (defMin : Option Word) (debug : Bool) : Config.Build :=
  { Config.defaultBuild with variant1 := some { dl := 64, defMin := defMin }, instEntropyCheck := true, debugAccess := debug }

/-! ### WellFormed and decoding -/

/-- R121: the two commands a build without DEBUG_ACCESS does not have. -/
theorem test_illFormed_refused :
    (Instr.gens false).wellFormed false = false ∧ (Instr.gens true).wellFormed false = false ∧
      Instr.rdst.wellFormed false = false ∧ (Instr.gens true).wellFormed true = true ∧
      Instr.rdst.wellFormed true = true ∧ (Instr.inst true true 3).wellFormed false = true := by decide

/-- R110: `RES VV O P CCCC`, bit 31 on the left, one word per command. -/
theorem test_decode_bits :
    decode true 0b00000000000000000000000000000000 = .ok .nop ∧
      decode true 0b00000000000000000000000010110001 = .ok (.inst true true 2) ∧
      decode true 0b00000000000000000000000001010001 = .ok (.inst true false 1) ∧
      decode true 0b00000000000000000000000000010010 = .ok (.gen true) ∧
      decode true 0b00000000000000000000000000000011 = .ok .rsd ∧
      decode true 0b00000000000000000000000000000100 = .ok (.gens false) ∧
      decode true 0b00000000000000000000000000000101 = .ok .rdst ∧
      decode true 0b00000000000000000000000000000110 = .ok .zero := by decide

/-- The illegal words of 95_test_vectors.md section 2.9. -/
theorem test_decode_illegal :
    decode true 0x10 = .error .unusedField ∧ decode true 0x22 = .error .unusedField ∧
      decode true 0x42 = .error .unusedField ∧ decode true 0x13 = .error .unusedField ∧
      decode true 0x15 = .error .unusedField ∧ decode false 0x14 = .error .debugDisabled ∧
      decode false 0x05 = .error .debugDisabled ∧ decode true 0x07 = .error .unassignedOpcode ∧
      decode true 0x0F = .error .unassignedOpcode ∧ decode true 0x101 = .error .reservedBits := by decide

/-- The examples of R125, and its case-insensitive syntax. -/
theorem test_parse :
    (parseCommand "inst").map AsmCmd.word = some 0x01 ∧
      (parseCommand "inst sha256, pers, minent").map AsmCmd.word = some 0x31 ∧
      (parseCommand "inst v1, minent").map AsmCmd.word = some 0x61 ∧
      (parseCommand "GEN add").map AsmCmd.word = some 0x12 ∧
      (parseCommand "gens add").map AsmCmd.word = some 0x14 ∧ parseCommand "gen pers" = none := by decide

/-- R111: the four bytes of a word, in the lanes of R84; the rest is handed back. -/
theorem test_decodeBytes :
    decodeBytes true [0x12, 0x00, 0x00, 0x00, 0x05] = .ok (.gen true, [0x05]) ∧
      decodeBytes true [0x00, 0x01, 0x00, 0x00] = .error .reservedBits ∧
      decodeBytes true [0x12, 0x00, 0x00] = .error .notAWord ∧
      decodeTableWord 32 0x31 = some (.inst true true 0) ∧ decodeTableWord 32 0x07 = none := by decide

/-! ### One step of each command -/

/-- INST of section 2.1 (R202): K, V, CNT, MINENT and STATUS. -/
theorem test_inst :
    (after (exec (.inst false false 0) (instOperands State.reset))).map
      (fun t => (t.gen.k, t.gen.v, t.gen.cnt, t.gen.minEnt, t.status)) =
        some (k0, v0, 0x0001000000000000, 24, 0x6) := by decide +kernel

/-- Section 2.1, errors: variant 1 unattached, LEN0 = 257. -/
theorem test_inst_errors :
    (after (exec (.inst false false 1) State.reset)).map State.status = some 0x12 ∧
      (after (exec (.inst false false 0) (withOperands 0 257 0 0 State.reset))).map State.status = some 0x52 := by decide

/-- GEN 32 from S0 (R221): the output and K. -/
theorem test_gen :
    (after (exec (.gen false) (withOperands 32 0 0 0 s0))).map
      (fun t => (t.win.mem.readBytes 0x1000 32, t.gen.k, t.win.outLen, t.gen.cnt)) =
        some (hexBytes 0x0ffb80875a3e9022a4941a3fa1b0d3611df14e1cf651a73ce9229b9f3ad56887 32,
          hexBytes 0x55db9b6aff9a5b99a8ecb35edf3042156b08f38bc7131e961617aa92eaf6cf1d 32, 32,
          0x0000FFFFFFFFFFFF) := by decide +kernel

/-- Section 2.3, the errors of GEN: ARG = 0, ARG = 65537, P = 1 with LEN0 = 300, CNT = 0, and the priorities. -/
theorem test_gen_errors :
    (after (exec (.gen false) s0)).map State.status = some 0x56 ∧
      (after (exec (.gen false) (withOperands 65537 0 0 0 s0))).map State.status = some 0x56 ∧
      (after (exec (.gen true) (withOperands 32 300 0 0 s0))).map State.status = some 0x56 ∧
      (after (exec (.gen false) (withCnt 0 (withOperands 32 0 0 0 s0)))).map State.status = some 0x26 ∧
      (after (exec (.gen false) (withCnt 0 s0))).map State.status = some 0x56 ∧
      (after (exec (.gen false) State.reset)).map State.status = some 0x42 := by decide

/-- RSD of section 2.5 (R248): K and CNT. -/
theorem test_rsd :
    (after (exec .rsd ((withOperands 0 24 0 0 s0).storeBuf .in0 (countUp 0x40 24)))).map
      (fun t => (t.gen.k, t.gen.v, t.gen.cnt)) =
        some (hexBytes 0xcb57429cbedcee97867af0c69a3fe3fbbe8f8cc2109c60428921d7bc30b9d72e 32,
          hexBytes 0x7c8be66ca6e61b564fa2e87d1d7f002d07c18ad4af3b73c8fdf6cf4f51f32cc9 32,
          0x0001000000000000) := by decide +kernel

/-- Section 2.5, errors: LEN0 = MINENT - 1, LEN1 = 257, no instance. -/
theorem test_rsd_errors :
    (after (exec .rsd (withOperands 0 23 0 0 s0))).map State.status = some 0x36 ∧
      (after (exec .rsd (withOperands 0 24 257 0 s0))).map State.status = some 0x56 ∧
      (after (exec .rsd (withOperands 0 24 0 0 State.reset))).map State.status = some 0x42 := by decide

/-- Section 2.8: GENS without DEBUG_ACCESS raises IllegalCommand and shows nothing. -/
theorem test_gens_hidden :
    (after (exec (.gens false) { withOperands 32 0 0 0 s0 with build := otherBuild none false })).map
      (fun t => (t.win.err, t.gen, t.win.mem)) = some (.illegalCommand, s0.gen, []) := by decide

/-- GENS 1 from S0 (R227; section 2.3, n = 1): one byte of output, the K and V it leaves, DBG_CNT 0. -/
theorem test_gens :
    (after (exec (.gens false) (withOperands 1 0 0 0 s0))).map
      (fun t => (t.win.mem.readBytes 0x1000 2, t.win.mem.readBytes 0x700 32, t.win.mem.readBytes 0x740 33, t.win.dbgCntLo)) =
        some ([0x0f, 0x00], hexBytes 0x55db9b6aff9a5b99a8ecb35edf3042156b08f38bc7131e961617aa92eaf6cf1d 32,
          hexBytes 0xa12b960ce3ae61cc21a2cf7113a1dc3154a5e7409c6bd9f20e8f31f4c23e51b000 33, 0) := by decide +kernel

/-- Section 2.8: RDST from S0 shows K, V and CNT. -/
theorem test_rdst :
    (after (exec .rdst s0)).map
      (fun t => (t.win.mem.readBytes 0x700 64, t.win.mem.readBytes 0x740 32, t.win.dbgCntHi, t.win.dbgCntLo)) =
        some (k0 ++ zeros 32, v0, 0x00010000, 0) := by decide +kernel

/-- Section 2.8: ZERO gives STATUS 0x00000002 and the reset generator state. -/
theorem test_zero :
    (after (exec .zero s0)).map (fun t => (t.status, t.gen)) = some (0x2, Gen.reset) := by decide

/-- Section 2.8: NOP at the machine's step clears what an earlier GEN left, and keeps the generator state. -/
theorem test_nop :
    (after (step (about (.write 0x000 .word 0x00000000) { s0.storeBuf .out [0x0f] with win.outLen := 1 }))).map
      (fun t => (t.status, t.win.mem, t.win.outLen, t.gen)) = some (0x6, [], 0, s0.gen) := by decide

/-- FIPS 180-4 (log entry 3): each round constant is the first 32 fraction bits of the cube root of a prime, so its cube, with the
root's integer part in front, brackets the prime times 2^96. -/
theorem test_sha_constants :
    (((List.range 312).filter fun n => 1 < n && (List.range n).all fun d => d < 2 || n % d != 0).zip shaConstants).all
      (fun c => (List.range 7).any fun n =>
        (n * 2 ^ 32 + c.2.toNat) ^ 3 ≤ c.1 * 2 ^ 96 && c.1 * 2 ^ 96 < (n * 2 ^ 32 + c.2.toNat + 1) ^ 3) = true ∧
      shaConstants.length = 64 := by decide +kernel

/-- Section 2.10: CMD written while BUSY = 1 is refused. -/
theorem test_overlap_refused :
    busWrite 0x000 .word 0x2 (inPhase .genBlock s0) = .refused .writeWhileBusy := by rfl

/-- R84: a 16-bit write puts its low byte at the lower offset. -/
theorem test_lanes :
    (after (busWrite 0x400 .half 0xBBAA s0)).map (fun t => (t.win.mem.read 0x400, t.win.mem.read 0x401)) =
      some (0xAA, 0xBB) := by decide

/-- R84: a 32-bit read gives the byte at the lowest offset in bits 7:0. -/
theorem test_read_lanes :
    busRead 0x1000 .word (s0.storeBuf .out [0x01, 0x02, 0x03, 0x04]) =
      .next (0x04030201, s0.storeBuf .out [0x01, 0x02, 0x03, 0x04]) := by rfl

/-- R86, I19: misaligned accesses are refused, at the window's last bytes and on reserved locations too. -/
theorem test_misaligned :
    busRead 0x10FFE .word s0 = .refused .badAccess ∧ busRead 0x10FFF .half s0 = .refused .badAccess ∧
      busWrite 0x782 .word 0 s0 = .refused .badAccess ∧ busRead 0x780 .word s0 = .next (0, s0) := ⟨rfl, rfl, rfl, rfl⟩

/-- R153: the phases after the CHECK of a GEN with and without additional input, and of an error. -/
theorem test_phases :
    ((withOperands 33 0 0 0 s0).issue 0x02).seqCheck.seq.phase = .genBlock ∧
      ((withOperands 33 0 0 0 s0).issue 0x12).seqCheck.seq.phase = .updK0 ∧
      (s0.issue 0x02).seqCheck.seq.phase = .complete ∧
      (seqStep { inPhase .updV0 s0 with seq.udata := none, seq.uret := .genPost }).seq.phase = .cntOp := by decide

/-! ### States that meet the hypotheses of the statements -/

theorem sound_s0 : Sound s0 := ⟨by decide, by decide, by decide, by decide, by decide⟩

/-- A state with the build, generator state and memory of S0 is sound. -/
theorem sound_of_s0 {s : State} (hb : s.build = s0.build) (hg : s.gen = s0.gen) (hm : s.win.mem = s0.win.mem) : Sound s where
  build_wf := hb ▸ sound_s0.build_wf
  attached := by rw [hb, hg]; exact sound_s0.attached
  k_length := by rw [hb, hg]; exact sound_s0.k_length
  v_length := by rw [hb, hg]; exact sound_s0.v_length
  mem_wf := hm ▸ sound_s0.mem_wf

/-- A state with an empty window but for ARG and LEN0, and an empty TBUF, has the invariant when its generator state does and its
phase may stand there. -/
theorem inv_of_fresh {s : State} (h : Sound s) (hw : s.win = { Window.reset with arg := s.win.arg, len0 := s.win.len0 })
    (hc : s.gen.cnt ≤ s.build.ri) (hu : s.gen.inst = false → s.gen = Gen.reset) (ht : s.seq.tbuf = [])
    (hi : s.busy = false → s.seq.udata = none ∧ s.seq.adata = none ∧ s.seq.nreq = 0)
    (hr : s.seq.phase ≠ .idle → s.seq.phase ≠ .check → s.seq.phase ≠ .complete → s.gen.inst = true)
    (hd : s.beforeDecrement = true → s.gen.cnt ≠ 0)
    (ho : s.beforeOutput = true → s.seq.nreq ≠ 0 ∧ s.seq.nreq.toNat ≤ s.build.maxOutLen) : Inv s := by
  have hm : s.win.mem = [] := by rw [hw]; rfl
  have hout : s.win.outLen = 0 := by rw [hw]; rfl
  exact {
    build_wf := h.build_wf
    attached := h.attached
    k_length := h.k_length
    v_length := h.v_length
    cnt_le := hc
    uninstantiated := hu
    mem_wf := h.mem_wf
    mem_holds := by simp [hm]
    outLen_le := by simp [hout]
    out_tail := fun _ _ => by rw [hm]; rfl
    done_idle := fun hd => by rw [hw] at hd; cases hd
    err_idle := fun _ => by rw [hw]; rfl
    idle_clear := fun hb => ⟨ht, hi hb⟩
    debug_hidden := fun _ => ⟨by rw [hw]; rfl, by rw [hw]; rfl, fun _ _ => by rw [hm]; rfl⟩
    check_clear := fun _ => ht
    tbuf_blocks := by simp [ht]
    tbuf_le := by simp [ht]
    running := fun hp => by
      apply hr <;> rintro hq <;> simp [hq, Phase.isUpdate] at hp
    cnt_pos := hd
    request := ho
    short := fun hp => by
      have hn := (ho (by rcases hp with hp | ⟨hp, hq⟩ <;> simp [State.beforeOutput, *])).1
      rw [ht]
      exact Nat.pos_of_ne_zero fun h0 => hn (BitVec.eq_of_toNat_eq h0)
    no_output := fun _ => hout }

theorem inv_s0 : Inv s0 :=
  inv_of_fresh sound_s0 rfl (by decide) (by decide) rfl (by decide) (by decide) (by decide) (by decide)

/-- S0 with a GEN of 33 bytes just issued. -/
def s0Busy : State := { withOperands 33 0 0 0 s0 with seq.phase := .check, seq.lcmd := 0x2 }

theorem inv_s0Busy : Inv s0Busy :=
  inv_of_fresh ⟨by decide, by decide, by decide, by decide, by decide⟩ rfl (by decide) (by decide) rfl (by decide)
    (by decide) (by decide) (by decide)

/-- S0 in a phase of a GENS of 33 bytes, or of an RSD, with an update's data. -/
def midCommand (p : Phase) (ret : URet) (d : Opt) : State :=
  { s0 with seq := { Sequencer.reset with phase := p, uret := ret, udata := d, nreq := 33, lcmd := 0x14 } }

theorem inv_midCommand (p : Phase) (ret : URet) (d : Opt) (hp : p ≠ .idle) : Inv (midCommand p ret d) :=
  inv_of_fresh (sound_of_s0 rfl rfl rfl) rfl inv_s0.cnt_le (fun h => inv_s0.uninstantiated h) rfl
    (fun hb => by cases p <;> first | exact absurd rfl hp | cases hb) (fun _ _ _ => rfl)
    (fun _ => (by decide : s0.gen.cnt ≠ 0)) (fun _ => (by decide : (33 : Word) ≠ 0 ∧ (33 : Word).toNat ≤ s0.build.maxOutLen))

/-- The reset state of a build without DEBUG_ACCESS. -/
def hiddenReset : State := State.resetOf (otherBuild none false)

theorem inv_hiddenReset : Inv hiddenReset :=
  inv_of_fresh ⟨by decide, by decide, by decide, by decide, by decide⟩ rfl (by decide) (by decide) rfl (by decide)
    (by decide) (by decide) (by decide)

theorem hostReady_about (st : HostStmt) (s : State) (ht : s.host.turns = []) (hb : s.busy = false) :
    HostReady (about st s) st := ⟨ht, hb, rfl⟩

theorem witness_LegalWordsMatchTheTable :
    ∃ w r, r ∈ tableRows ∧ r.selects w = true ∧ r.needsDebug = true := ⟨0x14, (Instr.gens true).row, by decide, by decide, by decide⟩

theorem witness_StepRunsTheDecodedCommand :
    (∃ s w i, HostReady s (.write Reg.cmd.offset .word w) ∧ s.host.grain = .command ∧
      decode s.build.debugAccess w = .ok i) ∧
      ∃ s w, HostReady s (.write Reg.cmd.offset .word w) ∧ s.host.grain = .micro :=
  ⟨⟨_, 0x31, .inst true true 0, hostReady_about _ s0 rfl rfl, rfl, by decide⟩,
    ⟨_, 0x31, hostReady_about _ (atMicro s0) rfl rfl, rfl⟩⟩

theorem witness_IllegalWordCompletes :
    ∃ s w e, HostReady s (.write Reg.cmd.offset .word w) ∧ s.host.grain = .command ∧
      decode s.build.debugAccess w = .error e :=
  ⟨_, 0x7, .unassignedOpcode, hostReady_about _ s0 rfl rfl, rfl, by decide⟩

theorem witness_PlacedWordRunsNext :
    ∃ (s : State) (nbits w : Nat) (i : Instr), nbits ≤ 32 ∧ w < 2 ^ nbits ∧
      decode s.build.debugAccess (BitVec.ofNat 32 w) = .ok i := ⟨s0, 32, 0x14, .gens true, by decide, by decide, by decide⟩

theorem witness_IssueClearsOutputs :
    ∃ s w, HostReady s (.write Reg.cmd.offset .word w) ∧ s.host.grain = .micro ∧ outputByte s.build 0x10FFF = true ∧
      outputByte s.build 0x6FF = false :=
  ⟨_, 0x3, hostReady_about _ (atMicro s0) rfl rfl, rfl, by decide, by decide⟩

theorem witness_EveryWordLeavesTheBlockReady :
    ∃ s w, HostReady s (.write Reg.cmd.offset .word w) ∧ s.host.grain = .command :=
  ⟨_, 0xFFFFFFFF, hostReady_about _ s0 rfl rfl, rfl⟩

theorem witness_RdstShowsTheState :
    Sound s0 ∧ s0.build.debugAccess = true ∧ inputByte s0.build 0x720 = false ∧
      Buf.dbgK.firstBytes 32 0x720 = false ∧ Buf.dbgV.firstBytes 32 0x720 = false :=
  ⟨sound_s0, by decide, by decide, by decide, by decide⟩

theorem witness_DebugCommandsNeedDebugAccess : hiddenReset.build.debugAccess = false := by decide

/-- All operands at MAX_IN_LEN, and a build that checks entropy, at the floor. -/
theorem witness_InstCreatesTheInstance :
    ∃ (s : State) (m : Word), s.win.len0.toNat = s.build.maxInLen ∧ s.win.len1.toNat = s.build.maxInLen ∧
      s.win.len2.toNat = s.build.maxInLen ∧ s.build.variantInfo 1 = some { dl := 64, defMin := some 256 } ∧ m = 256 ∧
      s.build.instEntropyCheck = true ∧ m.toNat = s.win.len0.toNat :=
  ⟨withOperands 0 256 256 256 (State.resetOf (otherBuild (some 256) false)), 256, by decide⟩

/-- A state for each clause of InstErrorsInOrder. -/
theorem witness_InstErrorsInOrder :
    (∃ s : State, s.build.maxInLen < s.win.len1.toNat) ∧
      (∃ s : State, s.win.len0.toNat ≤ s.build.maxInLen ∧ s.build.variantInfo 2 = none) ∧
      (∃ (s : State) (info : Config.VariantInfo), s.build.variantInfo 1 = some info ∧ info.defMin = none) ∧
      ∃ (s : State) (m : Word), s.win.arg = m ∧ s.build.instEntropyCheck = true ∧
        s.build.variantInfo 1 = some { dl := 64, defMin := none } ∧ s.win.len0.toNat + 1 = m.toNat :=
  ⟨⟨withOperands 0 0 257 0 s0, by decide⟩, ⟨withOperands 0 256 0 0 s0, by decide⟩, ⟨hiddenReset, _, rfl, rfl⟩,
    ⟨withOperands 24 23 0 0 hiddenReset, 24, by decide⟩⟩

/-- Two successful INST with one seed split in two ways (R200). -/
theorem witness_InstDependsOnTheSeedAlone :
    ∃ s s' t t' : State, s.build = s'.build ∧ exec (.inst false true 1) s = .next t ∧
      exec (.inst true true 1) s' = .next t' ∧ t.win.err = .ok ∧ t'.win.err = .ok ∧ t.gen.minEnt = t'.gen.minEnt ∧
      s.operand0 ++ s.operand1 ++ [] = s'.operand0 ++ s'.operand1 ++ s'.operand2 :=
  ⟨(withOperands 1 2 0 0 hiddenReset).storeBuf .in0 [0xAA, 0xBB],
    ((withOperands 1 1 0 1 hiddenReset).storeBuf .in0 [0xAA]).storeBuf .in2 [0xBB], _, _, rfl, rfl, rfl, rfl, rfl, rfl,
    by decide⟩

/-- The largest and the smallest request. -/
theorem witness_GenProducesTheOutput :
    Sound (withOperands 65536 0 0 0 s0) ∧ GenReady (withOperands 65536 0 0 0 s0) false ∧
      Sound (withCnt 1 (withOperands 1 256 0 0 s0)) ∧ GenReady (withCnt 1 (withOperands 1 256 0 0 s0)) true :=
  ⟨⟨by decide, by decide, by decide, by decide, by decide⟩, ⟨by decide, by decide, by decide, by decide, by decide⟩,
    ⟨by decide, by decide, by decide, by decide, by decide⟩, ⟨by decide, by decide, by decide, by decide, by decide⟩⟩

theorem witness_GensShowsTheStateAfter :
    Sound (withOperands 33 0 0 0 s0) ∧ GenReady (withOperands 33 0 0 0 s0) true ∧
      (withOperands 33 0 0 0 s0).build.debugAccess = true :=
  ⟨⟨by decide, by decide, by decide, by decide, by decide⟩, ⟨by decide, by decide, by decide, by decide, by decide⟩,
    by decide⟩

/-- A state for each clause of GenErrorsInOrder. -/
theorem witness_GenErrorsInOrder :
    State.reset.gen.inst = false ∧ s0.build.debugAccess = true ∧ s0.gen.inst = true ∧ s0.win.arg = 0 ∧
      (withOperands 65537 0 0 0 s0).build.maxOutLen + 1 = (withOperands 65537 0 0 0 s0).win.arg.toNat ∧
      (withOperands 1 257 0 0 s0).build.maxInLen + 1 = (withOperands 1 257 0 0 s0).win.len0.toNat ∧
      (withCnt 0 (withOperands 65536 256 0 0 s0)).gen.cnt = 0 ∧
      (withCnt 0 (withOperands 65536 256 0 0 s0)).win.arg.toNat = s0.build.maxOutLen := by decide

theorem witness_OutputBytesComeFromTheChain :
    Sound (withOperands 33 0 0 0 s0) ∧ GenReady (withOperands 33 0 0 0 s0) false ∧
      32 < (withOperands 33 0 0 0 s0).win.arg.toNat :=
  ⟨witness_GensShowsTheStateAfter.1, ⟨by decide, by decide, by decide, by decide, by decide⟩, by decide⟩

/-- R219 (a): 1 and 32 bytes take one block each. -/
theorem witness_EqualBlockCountsGiveEqualState :
    Sound s0 ∧ GenReady { s0 with win.arg := 1 } false ∧ GenReady { s0 with win.arg := 32 } false ∧
      ceilDiv 1 (s0.build.digestLen s0.gen.variant) = ceilDiv 32 (s0.build.digestLen s0.gen.variant) :=
  ⟨sound_s0, ⟨by decide, by decide, by decide, by decide, by decide⟩, ⟨by decide, by decide, by decide, by decide, by decide⟩,
    by decide⟩

/-- R246 (a): LEN0 = MINENT. -/
theorem witness_RsdMixesTheSeed :
    s0.gen.inst = true ∧ (withOperands 0 24 256 0 s0).win.len1.toNat = s0.build.maxInLen ∧
      (withOperands 0 24 256 0 s0).win.len0.toNat = s0.gen.minEnt.toNat := by decide

theorem witness_RsdErrorsInOrder :
    State.reset.gen.inst = false ∧ s0.gen.inst = true ∧
      (withOperands 0 257 0 0 s0).build.maxInLen < (withOperands 0 257 0 0 s0).win.len0.toNat ∧
      (withOperands 0 23 256 0 s0).win.len0.toNat + 1 = s0.gen.minEnt.toNat := by decide

theorem witness_FailedCommandsChangeNothing :
    (∃ t, exec (.gen false) State.reset = .next t ∧ t.win.err ≠ .ok) ∧
      ∃ t, runCommand (s0.issue 0x7) = .next t ∧ t.win.err ≠ .ok :=
  ⟨⟨_, rfl, by decide⟩, ⟨_, rfl, by decide⟩⟩

theorem witness_CommandsWriteOnlyTheirFields : ∃ t, exec .zero s0 = .next t ∧ t.win.err = .ok := ⟨_, rfl, by decide⟩

theorem witness_CommandsKeepTheOtherOutputs :
    ∃ t, s0.build.wf = true ∧ exec .nop s0 = .next t ∧ Buf.out.holds s0.build 0x10FFF = true ∧
      Buf.dbgK.holds s0.build 0x700 = true ∧ Buf.dbgV.holds s0.build 0x77F = true ∧
      bufferByte s0.build 0x780 = false :=
  ⟨_, by decide, rfl, by decide, by decide, by decide, by decide⟩

theorem witness_ProviderCallCounts :
    ∃ t, Sound s0 ∧ exec (.gen true) (withOperands 65 0 0 0 s0) = .next t ∧ t.win.err = .ok := ⟨_, sound_s0, rfl, rfl⟩

theorem witness_CounterChangesOnlyByTheRules : ∃ t, Inv s0Busy ∧ step s0Busy = .next t := ⟨_, inv_s0Busy, rfl⟩

/-- One generate off a counter of 1, and the operands of a legal request written after it; and no generate off a counter of 0. -/
theorem witness_CounterCountsGenerates :
    (∃ t : State, GenerateRun 1 (withCnt 1 (withOperands 1 0 0 0 s0)) t ∧
      1 = (withCnt 1 (withOperands 1 0 0 0 s0)).gen.cnt.toNat ∧ t.gen.inst = true ∧ t.win.arg = 65536 ∧
      t.build.maxOutLen = 65536 ∧ t.win.len0.toNat = t.build.maxInLen ∧ t.build.debugAccess = true) ∧
      GenerateRun 0 (withCnt 0 s0) (withCnt 0 s0) ∧ 0 = (withCnt 0 s0).gen.cnt.toNat :=
  ⟨⟨withOperands 65536 256 0 0 _, .idle 1 _ _ _ (.gen 0 _ _ _ false (.start _) rfl rfl) rfl rfl, by decide, rfl, rfl, rfl, rfl,
    rfl⟩, .start _, by decide⟩

theorem witness_OnlyCommandsTouchTheGenerator :
    ∃ s t st, HostReady s st ∧ (∀ w, st ≠ .write Reg.cmd.offset .word w) ∧ step s = .next t :=
  ⟨about (.write 0x004 .word 7) s0, _, .write 0x004 .word 7, hostReady_about _ s0 rfl rfl, by simp [Reg.offset], rfl⟩

theorem witness_InvariantIsKept :
    (∃ t, Inv s0Busy ∧ step s0Busy = .next t) ∧ ∃ t, Inv s0 ∧ step s0 = .next t :=
  ⟨⟨_, inv_s0Busy, rfl⟩, ⟨_, inv_s0, rfl⟩⟩

theorem witness_InvariantHoldsAtReset : (otherBuild (some 24) false).wf = true ∧ Config.defaultBuild.wf = true := by decide

theorem witness_MicroSequenceRefinesTheCommand : Inv s0 ∧ s0.busy = false := ⟨inv_s0, by decide⟩

/-- Every phase but IDLE, every return and any data: a state for each clause, UPD_V0 with and without data among them, and a
COMPLETE of a GENS that passed. -/
theorem witness_OneProviderCallAPhase :
    (∀ p ret d, p ≠ .idle → Inv (midCommand p ret d) ∧ (midCommand p ret d).host.turns = [] ∧
      (midCommand p ret d).busy = true ∧ (midCommand p ret d).seq.phase = p ∧ (midCommand p ret d).seq.udata = d) ∧
      decode true (midCommand .complete .genPost none).seq.lcmd = .ok (.gens true) ∧
      (midCommand .complete .genPost none).seq.outcome = .ok :=
  ⟨fun p ret d hp => ⟨inv_midCommand p ret d hp, rfl, by cases p <;> first | exact absurd rfl hp | rfl, rfl, rfl⟩,
    by decide, rfl⟩

/-- S0 in CHECK with a command word and the operands of an RSD and a GEN. -/
def inCheck (w : Word) : State := { withOperands 33 24 0 0 s0 with seq.phase := .check, seq.lcmd := w }

/-- A state for each row of CHECK: every word, a command that fails (the GEN without an instance) and one that passes. -/
theorem witness_CheckStartsTheRowOfTheCommand :
    (∀ w, Sound (inCheck w) ∧ (inCheck w).host.turns = [] ∧ (inCheck w).seq.phase = .check) ∧
      decode true 0x7 = .error .unassignedOpcode ∧ decode true 0x2 = .ok (.gen false) ∧
      (∃ u, exec (.gen false) State.reset = .next u ∧ u.win.err ≠ .ok) ∧
      (∃ u, exec (.gen true) (inCheck 0x12) = .next u ∧ u.win.err = .ok) ∧
      (∃ u, exec (.gens false) (inCheck 0x4) = .next u ∧ u.win.err = .ok) ∧
      (∃ u, exec (.inst true false 0) (inCheck 0x11) = .next u ∧ u.win.err = .ok) ∧
      (∃ u, exec .rsd (inCheck 0x3) = .next u ∧ u.win.err = .ok) ∧
      ∃ u, exec .rdst (inCheck 0x5) = .next u ∧ u.win.err = .ok :=
  ⟨fun _ => ⟨sound_of_s0 rfl rfl rfl, rfl, rfl⟩, by decide, by decide,
    ⟨_, rfl, by decide⟩, ⟨_, rfl, rfl⟩, ⟨_, rfl, rfl⟩, ⟨_, rfl, rfl⟩, ⟨_, rfl, rfl⟩, ⟨_, rfl, rfl⟩⟩

/-- The first offset past the window, a word across its end, a half-word of the last control register, the first misaligned word
past the registers, a misaligned word of reserved locations. -/
theorem witness_BadAccessesAreRefused :
    0x11000 ≤ 0x11000 ∧ 0x10FFE < 0x11000 ∧ 0x10FFE % AccessSize.word.bytes ≠ 0 ∧ 0x26 < 0x28 ∧
      AccessSize.half ≠ .word ∧ 0x29 % AccessSize.word.bytes ≠ 0 ∧ 0x782 % AccessSize.word.bytes ≠ 0 ∧
      bufferByte s0.build 0x782 = false := by decide

theorem witness_OperandRegistersHoldTheirValue : s0.busy = false := by decide

/-- The last word of IN0 and the last byte of IN2. -/
theorem witness_OperandBytesHoldTheirLanes :
    Sound s0 ∧ s0.busy = false ∧ 0x4FC % AccessSize.word.bytes = 0 ∧
      (∀ i, i < AccessSize.word.bytes → inputByte s0.build (0x4FC + i) = true) ∧ inputByte s0.build 0x6FF = true :=
  ⟨sound_s0, by decide, by decide, by decide, by decide⟩

/-- The last word of OUT, the last byte of DBG_V. -/
theorem witness_IdleReadsGiveTheContents :
    s0.busy = false ∧ s0.build.wf = true ∧ 0x10FFC % AccessSize.word.bytes = 0 ∧
      (∀ i, i < AccessSize.word.bytes → bufferByte s0.build (0x10FFC + i) = true) ∧ 0x77F % AccessSize.byte.bytes = 0 ∧
      (∀ i, i < AccessSize.byte.bytes → bufferByte s0.build (0x77F + i) = true) := by decide

/-- The smallest request. -/
theorem witness_HostReadsTheOutput :
    Inv (withOperands 1 0 0 0 s0) ∧ (withOperands 1 0 0 0 s0).win.outLen = 0 ∧ GenReady (withOperands 1 0 0 0 s0) false ∧
      0 < (withOperands 1 0 0 0 s0).build.maxOutLen :=
  ⟨inv_of_fresh ⟨by decide, by decide, by decide, by decide, by decide⟩ rfl (by decide) (by decide) rfl (by decide)
    (by decide) (by decide) (by decide), rfl, ⟨by decide, by decide, by decide, by decide, by decide⟩, by decide⟩

/-- The last word of OUT, and the first and the last reserved words past the registers and past DBG_V; and in a build whose OUT
has 65533 bytes the word of its last byte and three reserved ones. -/
theorem witness_ReadOnlyAndReservedIgnoreWrites :
    ({ Config.defaultBuild with maxOutLen := 65533 } : Config.Build).wf = true ∧
      bufferByte { Config.defaultBuild with maxOutLen := 65533 } 0x10FFC = true ∧
      bufferByte { Config.defaultBuild with maxOutLen := 65533 } 0x10FFD = false ∧
      (∀ i, i < AccessSize.word.bytes → inputByte { Config.defaultBuild with maxOutLen := 65533 } (0x10FFC + i) = false) ∧
    0x10FFC < 0x11000 ∧ 0x10FFC % AccessSize.word.bytes = 0 ∧
      (∀ i, i < AccessSize.word.bytes → inputByte s0.build (0x10FFC + i) = false) ∧ s0.busy = false ∧
      0x28 % AccessSize.word.bytes = 0 ∧ (∀ i, i < AccessSize.word.bytes → bufferByte s0.build (0x28 + i) = false) ∧
      (∀ i, i < AccessSize.word.bytes → bufferByte s0.build (0xFFC + i) = false) := by decide

theorem witness_WritesWhileBusyAreRefused :
    s0Busy.busy = true ∧ s0Busy.build.wf = true ∧ 0x400 % AccessSize.word.bytes = 0 ∧
      inputByte s0Busy.build (0x400 + 0) = true := by decide

theorem witness_ReadsWhileBusy :
    Inv s0Busy ∧ s0Busy.busy = true ∧ 0x10FFE < 0x11000 ∧ 0x10FFE % AccessSize.half.bytes = 0 :=
  ⟨inv_s0Busy, by decide, by decide, by decide⟩

theorem witness_ReadsHaveNoSideEffect :
    (∃ x t, s0.busy = false ∧ busRead Reg.status.offset .word s0 = .next (x, t)) ∧
      ∃ x t, s0Busy.busy = true ∧ busRead Reg.outLen.offset .word s0Busy = .next (x, t) :=
  ⟨⟨_, _, by decide, rfl⟩, ⟨_, _, by decide, rfl⟩⟩

theorem witness_SecretsAreNotReadable :
    ∃ x, s0.busy = false ∧ busRead Reg.minEnt.offset .word s0 = .next (x, s0) := ⟨_, by decide, rfl⟩

theorem witness_DebugRegistersReadZeroWithoutAccess :
    Inv hiddenReset ∧ hiddenReset.build.debugAccess = false ∧ hiddenReset.busy = false ∧ 0x700 ≤ 0x77C ∧
      0x77C + AccessSize.word.bytes ≤ 0x780 ∧ 0x77C % AccessSize.word.bytes = 0 :=
  ⟨inv_hiddenReset, by decide, by decide, by decide, by decide, by decide⟩

theorem witness_ResetAbortsACommand :
    ({ s0Busy with host.turns := [.reset] } : State).host.turns = .reset :: [] := rfl

theorem witness_HostStatements :
    HostReady (about (.write 0x400 .byte 1) s0) (.write 0x400 .byte 1) ∧
      HostReady (about (.read Reg.outLen.offset .word) s0) (.read Reg.outLen.offset .word) ∧ s0.build.wf = true ∧
      65535 < Buf.out.size s0.build ∧
      HostReady (about (.read (Buf.out.offset + 65535) .byte) s0) (.read (Buf.out.offset + 65535) .byte) ∧
      HostReady (about .wait s0) .wait ∧
      HostReady (about (.jeq Reg.status.offset 7 4 2 5) s0) (.jeq Reg.status.offset 7 4 2 5) ∧
      HostReady (about (.jmp 0) s0) (.jmp 0) :=
  ⟨hostReady_about _ s0 rfl rfl, hostReady_about _ s0 rfl rfl, by decide, by decide, hostReady_about _ s0 rfl rfl,
    hostReady_about _ s0 rfl rfl, hostReady_about _ s0 rfl rfl, hostReady_about _ s0 rfl rfl⟩

theorem witness_FinishedRunsStay : s0.host.turns = [] ∧ s0.busy = false ∧ s0.host.prog.length ≤ s0.host.pc := by decide

end Sys2Proof.Tests
end

