-- ==== Sys2Proof/Proofs/Scope.lean ====
section
/-! SUPPORT. What a command that ends in an error leaves (00_scope.md rule R15). -/

namespace Sys2Proof.Machine

/-- A completed command ended with OK or raised; one that raised is the completion of the state it began in. -/
theorem exec_raised {i : Instr} {s t : State} (h : exec i s = .next t) (herr : t.win.err ≠ .ok) :
    Raised s t t.win.err := by
  rcases exec_cases i s with ⟨x, -, -, -, -, hx⟩ | ⟨e, -, he⟩
  · obtain rfl : x.complete .ok = t := Host.Outcome.next.inj (hx.symm.trans h)
    exact absurd rfl herr
  · obtain rfl : s.complete e = t := Host.Outcome.next.inj (he.symm.trans h)
    exact State.raised_complete s e

/-- Running the word in LCMD is its command's meaning, or, where the word is illegal, IllegalCommand's completion (R263, R305). -/
theorem runCommand_cases (s : State) :
    (∃ i, decode s.build.debugAccess s.seq.lcmd = .ok i ∧ runCommand s = exec i s) ∨
      ∃ e, decode s.build.debugAccess s.seq.lcmd = .error e ∧ runCommand s = .next (s.complete .illegalCommand) := by
  cases hd : decode s.build.debugAccess s.seq.lcmd with
  | ok i => exact .inl ⟨i, rfl, by simp only [runCommand, hd]⟩
  | error e => exact .inr ⟨e, rfl, by simp only [runCommand, hd, State.raiseError_eq]⟩

/-- An illegal word, too, raises and only completes. -/
theorem runCommand_raised {s t : State} (h : runCommand s = .next t) (herr : t.win.err ≠ .ok) :
    Raised s t t.win.err := by
  rcases runCommand_cases s with ⟨i, -, hi⟩ | ⟨_, -, hill⟩
  · exact exec_raised (hi.symm.trans h) herr
  · obtain rfl : s.complete .illegalCommand = t := Host.Outcome.next.inj (hill.symm.trans h)
    exact State.raised_complete s .illegalCommand

/-- Settles O27: of `exec_cases` only the second case can leave an error, and it completes the state before. -/
theorem failedCommandsChangeNothing : Obligations.FailedCommandsChangeNothing :=
  ⟨fun _ _ _ => exec_raised, fun _ _ => runCommand_raised⟩

end Sys2Proof.Machine
end

section
/-! SUPPORT. The invariant in four parts (10_state.md): the generator state, the window, TBUF, and what each phase of the
sequencer relies on; and that together they say what `Inv` says. -/

namespace Sys2Proof.Machine

open Host
open Sys2Proof.Config (Build)

/-! ### The parts -/

/-- The generator state of a build: R31, R35, R170, R193. -/
structure Gen.Valid (b : Build) (g : Gen) : Prop where
  attached : (b.variantInfo g.variant).isSome = true
  k_length : g.k.length = b.digestLen g.variant
  v_length : g.v.length = b.digestLen g.variant
  cnt_le : g.cnt ≤ b.ri
  uninstantiated : g.inst = false → g = Gen.reset

/-- The window's bytes where `n` bytes of OUT are in use: R48, R51, R85. -/
structure Memory.Valid (b : Build) (n : Nat) (m : Memory) : Prop where
  wf : m.wf = true
  holds : ∀ c ∈ m, bufferByte b c.1 = true
  out_tail : ∀ i, n ≤ i → m.read (Buf.out.offset + i) = 0
  debug_hidden : b.debugAccess = false →
    ∀ a, (Buf.dbgK.holds b a = true ∨ Buf.dbgV.holds b a = true) → m.read a = 0

/-- The host register file: its bytes, OUTLEN (R212) and DBG_CNT (R51). -/
structure Window.Valid (b : Build) (w : Window) : Prop where
  mem : w.mem.Valid b w.outLen.toNat
  outLen_le : w.outLen.toNat ≤ b.maxOutLen
  dbgCnt_hidden : b.debugAccess = false → w.dbgCntLo = 0 ∧ w.dbgCntHi = 0

/-- The bound and the block structure of TBUF (R58). -/
structure State.TbufValid (s : State) : Prop where
  blocks : s.build.digestLen s.gen.variant ∣ s.seq.tbuf.length
  le : s.seq.tbuf.length ≤ s.build.maxOutLen + s.build.digestLen s.gen.variant - 1

/-- A GEN or GENS whose request is latched and not yet served (R212). -/
structure PendingRequest (b : Build) (cnt : BitVec 64) (nreq outLen : Word) : Prop where
  cnt_ne : cnt ≠ 0
  nreq_ne : nreq ≠ 0
  nreq_le : nreq.toNat ≤ b.maxOutLen
  outLen_eq : outLen = 0

/-- The request of a state is latched and not yet served. -/
abbrev State.Pending (s : State) : Prop := PendingRequest s.build s.gen.cnt s.seq.nreq s.win.outLen

/-- What the update engine relies on, for each of its callers. -/
structure State.UpdateValid (s : State) : Prop where
  inst : s.gen.inst = true
  genPre : s.seq.uret = .genPre → s.Pending ∧ s.seq.tbuf.length < s.seq.nreq.toNat
  genPost : s.seq.uret = .genPost → s.gen.cnt ≠ 0

/-- What a phase of the sequencer relies on. -/
def State.ValidIn (s : State) : Phase → Prop
  | .idle => s.seq.tbuf = [] ∧ s.seq.udata = none ∧ s.seq.adata = none ∧ s.seq.nreq = 0
  | .check => s.seq.tbuf = [] ∧ s.win.outLen = 0
  | .updK0 => s.UpdateValid
  | .updV0 => s.UpdateValid
  | .updK1 => s.UpdateValid
  | .updV1 => s.UpdateValid
  | .genBlock => s.gen.inst = true ∧ s.Pending ∧ s.seq.tbuf.length < s.seq.nreq.toNat
  | .genTrunc => s.gen.inst = true ∧ s.Pending
  | .cntOp => s.gen.inst = true ∧ (s.seq.uret = .genPost → s.gen.cnt ≠ 0)
  | .complete => True

/-- DONE and ERR are clear (R43). -/
def Window.Quiet (w : Window) : Prop := w.done = false ∧ w.err = .ok

/-- `Inv`, cut into the parts that the operations keep one by one. -/
structure InvParts (s : State) : Prop where
  build_wf : s.build.wf = true
  gen : s.gen.Valid s.build
  win : s.win.Valid s.build
  quiet : s.seq.phase ≠ .idle → s.win.Quiet
  tbuf : s.TbufValid
  phase : s.ValidIn s.seq.phase

theorem Inv.pending {s : State} (h : Inv s) (hb : s.beforeOutput = true) : s.Pending where
  cnt_ne := h.cnt_pos (by simp [State.beforeDecrement, hb])
  nreq_ne := (h.request hb).1
  nreq_le := (h.request hb).2
  outLen_eq := h.no_output (.inr hb)

theorem Inv.updateValid {s : State} (h : Inv s) (hu : s.seq.phase.isUpdate = true) : s.UpdateValid where
  inst := h.running (.inl hu)
  genPre he := ⟨h.pending (by simp [State.beforeOutput, hu, he]), h.short (.inr ⟨hu, he⟩)⟩
  genPost he := h.cnt_pos (by simp [State.beforeDecrement, hu, he])

theorem Inv.validIn {s : State} (h : Inv s) : s.ValidIn s.seq.phase := by
  cases hp : s.seq.phase
  case idle => exact h.idle_clear (s.not_busy_iff.mpr hp)
  case check => exact ⟨h.check_clear hp, h.no_output (.inl hp)⟩
  case updK0 | updV0 | updK1 | updV1 => exact h.updateValid (by rw [hp]; rfl)
  case genBlock =>
    exact ⟨h.running (.inr (.inl hp)), h.pending (by simp [State.beforeOutput, hp]), h.short (.inl hp)⟩
  case genTrunc => exact ⟨h.running (.inr (.inr (.inl hp))), h.pending (by simp [State.beforeOutput, hp])⟩
  case cntOp =>
    exact ⟨h.running (.inr (.inr (.inr hp))), fun he => h.cnt_pos (by simp [State.beforeDecrement, hp, he])⟩
  case complete => trivial

theorem Inv.parts {s : State} (h : Inv s) : InvParts s where
  build_wf := h.build_wf
  gen := ⟨h.attached, h.k_length, h.v_length, h.cnt_le, h.uninstantiated⟩
  win := ⟨⟨h.mem_wf, h.mem_holds, h.out_tail, fun hd => (h.debug_hidden hd).2.2⟩, h.outLen_le,
    fun hd => ⟨(h.debug_hidden hd).1, (h.debug_hidden hd).2.1⟩⟩
  quiet hp :=
    have hb := s.busy_iff.mpr hp
    ⟨Bool.eq_false_iff.mpr fun hd => by simp [h.done_idle hd] at hb, h.err_idle hb⟩
  tbuf := ⟨h.tbuf_blocks, h.tbuf_le⟩
  phase := h.validIn

theorem State.ValidIn.running {s : State} (h : s.ValidIn s.seq.phase)
    (hp : s.seq.phase.isUpdate = true ∨ s.seq.phase = .genBlock ∨ s.seq.phase = .genTrunc ∨ s.seq.phase = .cntOp) :
    s.gen.inst = true := by
  cases hq : s.seq.phase <;> rw [hq] at h <;> simp only [hq] at hp
  case updK0 | updV0 | updK1 | updV1 => exact h.inst
  case genBlock | genTrunc | cntOp => exact h.1
  all_goals simp [Phase.isUpdate] at hp

theorem State.ValidIn.pending {s : State} (h : s.ValidIn s.seq.phase) (hb : s.beforeOutput = true) : s.Pending := by
  simp only [State.beforeOutput, Bool.or_eq_true, Bool.and_eq_true, beq_iff_eq] at hb
  cases hq : s.seq.phase <;> rw [hq] at h <;> simp [hq, Phase.isUpdate] at hb
  case updK0 | updV0 | updK1 | updV1 => exact (h.genPre hb).1
  case genBlock => exact h.2.1
  case genTrunc => exact h.2

theorem State.ValidIn.cnt_ne_zero {s : State} (h : s.ValidIn s.seq.phase) (hb : s.beforeDecrement = true) :
    s.gen.cnt ≠ 0 := by
  simp only [State.beforeDecrement, Bool.or_eq_true, Bool.and_eq_true, beq_iff_eq] at hb
  rcases hb with hb | hb
  · exact (h.pending hb).cnt_ne
  · cases hq : s.seq.phase <;> rw [hq] at h <;> simp [hq, Phase.isUpdate] at hb
    case updK0 | updV0 | updK1 | updV1 => exact h.genPost hb
    case cntOp => exact h.2 hb

theorem State.ValidIn.short {s : State} (h : s.ValidIn s.seq.phase)
    (hp : s.seq.phase = .genBlock ∨ (s.seq.phase.isUpdate = true ∧ s.seq.uret = .genPre)) :
    s.seq.tbuf.length < s.seq.nreq.toNat := by
  cases hq : s.seq.phase <;> rw [hq] at h <;> simp [hq, Phase.isUpdate] at hp
  case updK0 | updV0 | updK1 | updV1 => exact (h.genPre hp).2
  case genBlock => exact h.2.2

theorem InvParts.inv {s : State} (h : InvParts s) : Inv s where
  build_wf := h.build_wf
  attached := h.gen.attached
  k_length := h.gen.k_length
  v_length := h.gen.v_length
  cnt_le := h.gen.cnt_le
  uninstantiated := h.gen.uninstantiated
  mem_wf := h.win.mem.wf
  mem_holds := h.win.mem.holds
  outLen_le := h.win.outLen_le
  out_tail := h.win.mem.out_tail
  done_idle hd := s.not_busy_iff.mpr (by_contra fun hp => by simp [(h.quiet hp).1] at hd)
  err_idle hb := (h.quiet (s.busy_iff.mp hb)).2
  idle_clear hb := by have hp := h.phase; rwa [s.not_busy_iff.mp hb] at hp
  debug_hidden hd := ⟨(h.win.dbgCnt_hidden hd).1, (h.win.dbgCnt_hidden hd).2, h.win.mem.debug_hidden hd⟩
  check_clear hp := by have hv := h.phase; rw [hp] at hv; exact hv.1
  tbuf_blocks := h.tbuf.blocks
  tbuf_le := h.tbuf.le
  running := h.phase.running
  cnt_pos := h.phase.cnt_ne_zero
  request hb := ⟨(h.phase.pending hb).nreq_ne, (h.phase.pending hb).nreq_le⟩
  short := h.phase.short
  no_output hp := by
    rcases hp with hp | hb
    · have hv := h.phase
      rw [hp] at hv
      exact hv.2
    · exact (h.phase.pending hb).outLen_eq

end Sys2Proof.Machine
end

section
/-! SUPPORT. How each operation of the machine keeps its part of the invariant. -/

namespace Sys2Proof.Machine

open Host
open Sys2Proof.Config (Build)

/-! ### The window's bytes -/

theorem Memory.Valid.clear {b : Build} {n : Nat} {m : Memory} (h : m.Valid b n) (a k : Nat) :
    (m.clear a k).Valid b n where
  wf := Memory.wf_clear a k h.wf
  holds c hc := h.holds c (Memory.mem_clear hc)
  out_tail i hi := by rw [Memory.read_clear, h.out_tail i hi, ite_self]
  debug_hidden hd x hx := by rw [Memory.read_clear, h.debug_hidden hd x hx, ite_self]

/-- New contents of operand bytes do not touch what the parts say of the output bytes. -/
theorem Memory.Valid.of_inputs {b : Build} {n : Nat} {m m' : Memory} (hb : b.wf = true) (h : m.Valid b n)
    (hwf : m.wf = true → m'.wf = true) (hnew : ∀ c ∈ m', inputByte b c.1 = true ∨ c ∈ m)
    (hread : ∀ a, inputByte b a = false → m'.read a = m.read a) : m'.Valid b n where
  wf := hwf h.wf
  holds c hc := (hnew c hc).elim (fun hi => by simp [bufferByte, hi]) (h.holds c)
  out_tail i hi := by
    rw [hread _ (not_inputByte hb (by simp [Buf.offset]; omega))]
    exact h.out_tail i hi
  debug_hidden hd a ha := by
    rw [hread _ (not_inputByte hb ?_)]
    · exact h.debug_hidden hd a ha
    · simp only [Buf.holds_iff, Buf.offset] at ha
      omega

/-- Storing in a debug buffer, in a build with DEBUG_ACCESS. -/
theorem State.storeBuf_debug_valid {s : State} {n : Nat} {f : Buf} (h : s.win.mem.Valid s.build n)
    (hf : f = .dbgK ∨ f = .dbgV) (hd : s.build.debugAccess = true) (bs : Bytes) :
    (s.storeBuf f bs).win.mem.Valid s.build n where
  wf := s.wf_storeBuf f bs h.wf
  holds c hc := (s.mem_storeBuf hc).elim bufferByte_of_holds (h.holds c)
  out_tail i hi := by
    rw [State.storeBuf_read_other, h.out_tail i hi]
    rcases hf with rfl | rfl <;> simp only [Buf.offset, Buf.size, Config.dlMax] <;> omega
  debug_hidden hd' := absurd hd (by simp [hd'])

/-- Storing at most `n` bytes in OUT, where it held nothing. -/
theorem State.storeBuf_out_valid {s : State} {n : Nat} {bs : Bytes} (h : s.win.mem.Valid s.build 0)
    (hn : bs.length ≤ n) : (s.storeBuf .out bs).win.mem.Valid s.build n where
  wf := s.wf_storeBuf .out bs h.wf
  holds c hc := (s.mem_storeBuf hc).elim bufferByte_of_holds (h.holds c)
  out_tail i hi := by
    rw [State.storeBuf_read_other _ _ _ (by omega)]
    exact h.out_tail i (Nat.zero_le i)
  debug_hidden hd a ha := by
    rw [State.storeBuf_read_other]
    · exact h.debug_hidden hd a ha
    · simp only [Buf.holds_iff, Buf.offset, Buf.size, Config.dlMax] at ha ⊢
      omega

/-! ### The host register file -/

theorem Window.reset_valid (b : Build) : Window.reset.Valid b where
  mem := ⟨rfl, by simp [Window.reset], fun _ _ => rfl, fun _ _ _ => rfl⟩
  outLen_le := Nat.zero_le _
  dbgCnt_hidden _ := ⟨rfl, rfl⟩

theorem State.issue_out_read {s : State} (h : s.win.Valid s.build) (w : Word) (i : Nat) :
    (s.issue w).win.mem.read (Buf.out.offset + i) = 0 := by
  rw [State.issue_read]
  split
  · rfl
  · next ho =>
    refine h.mem.out_tail i (h.outLen_le.trans ?_)
    have hout : Buf.out.holds s.build (Buf.out.offset + i) = false := by
      simp only [outputByte, Bool.not_eq_true, Bool.or_eq_false_iff] at ho
      exact ho.2
    simp only [Buf.not_holds_iff, Buf.size] at hout
    omega

theorem State.issue_valid {s : State} (h : s.win.Valid s.build) (w : Word) : (s.issue w).win.Valid s.build where
  mem :=
    { ((h.mem.clear _ _).clear _ _).clear _ _ with
      out_tail := fun i _ => State.issue_out_read h w i }
  outLen_le := Nat.zero_le _
  dbgCnt_hidden _ := ⟨rfl, rfl⟩

theorem State.complete_valid {s : State} (h : s.win.Valid s.build) (c : ErrKind) :
    (s.complete c).win.Valid s.build where
  mem := ((h.mem.clear _ _).clear _ _).clear _ _
  outLen_le := h.outLen_le
  dbgCnt_hidden := h.dbgCnt_hidden

theorem State.showKV_valid {s : State} (h : s.win.Valid s.build) (hd : s.build.debugAccess = true) :
    s.showKV.win.Valid s.build where
  mem :=
    have hK := State.storeBuf_debug_valid h.mem (.inl rfl) hd (s.gen.k.take (s.build.digestLen s.gen.variant))
    State.storeBuf_debug_valid (s := s.storeBuf .dbgK _) hK (.inr rfl) hd _
  outLen_le := h.outLen_le
  dbgCnt_hidden := h.dbgCnt_hidden

theorem State.showCnt_valid {s : State} {b : Build} (h : s.win.Valid b) (hd : b.debugAccess = true) :
    s.showCnt.win.Valid b where
  mem := h.mem
  outLen_le := h.outLen_le
  dbgCnt_hidden hd' := absurd hd (by simp [hd'])

theorem State.genTrunc_valid {s : State} (h : s.win.Valid s.build) (h0 : s.win.outLen = 0)
    (hn : s.seq.nreq.toNat ≤ s.build.maxOutLen) : s.genTrunc.win.Valid s.build where
  mem := by
    refine State.storeBuf_out_valid ?_ (List.length_take_le _ _)
    have hm := h.mem
    rwa [h0] at hm
  outLen_le := hn
  dbgCnt_hidden := h.dbgCnt_hidden

/-! ### The generator state -/

theorem Gen.reset_valid (b : Build) : Gen.reset.Valid b where
  attached := rfl
  k_length := rfl
  v_length := rfl
  cnt_le := BitVec.le_def.mpr (Nat.zero_le _)
  uninstantiated _ := rfl

/-- An instantiated generator stays valid whatever is written to K, V and CNT, within their bounds. -/
theorem Gen.Valid.rewrite {b : Build} {g g' : Gen} (h : g.Valid b) (hi : g.inst = true) (hi' : g'.inst = g.inst)
    (hv : g'.variant = g.variant) (hk : g'.k.length = b.digestLen g.variant)
    (hl : g'.v.length = b.digestLen g.variant) (hc : g'.cnt ≤ b.ri) : g'.Valid b where
  attached := by rw [hv]; exact h.attached
  k_length := by rw [hv]; exact hk
  v_length := by rw [hv]; exact hl
  cnt_le := hc
  uninstantiated h0 := by simp [hi', hi] at h0

theorem State.rekey_valid {s : State} (h : s.gen.Valid s.build) (hi : s.gen.inst = true) (m : Bytes) :
    (s.rekey m).gen.Valid s.build :=
  h.rewrite hi rfl rfl (providerOf_length _ _ _ _) h.v_length h.cnt_le

theorem State.chain_valid {s : State} (h : s.gen.Valid s.build) (hi : s.gen.inst = true) :
    s.chain.gen.Valid s.build :=
  h.rewrite hi rfl rfl h.k_length (providerOf_length _ _ _ _) h.cnt_le

theorem State.update_valid (s : State) (h : s.gen.Valid s.build) (hi : s.gen.inst = true) (ret : URet) (d : Opt) :
    (s.update ret d).gen.Valid s.build :=
  h.rewrite hi (s.update_inst ret d) (s.update_variant ret d) (s.update_lengths ret d).1 (s.update_lengths ret d).2
    (by rw [State.update_cnt]; exact h.cnt_le)

theorem State.reloadCnt_valid (s : State) (h : s.gen.Valid s.build) (hi : s.gen.inst = true) :
    s.reloadCnt.gen.Valid s.build :=
  h.rewrite hi rfl rfl h.k_length h.v_length (BitVec.le_refl _)

theorem State.decrementCnt_valid {s : State} (h : s.gen.Valid s.build) (hi : s.gen.inst = true)
    (hc : s.gen.cnt ≠ 0) : s.decrementCnt.gen.Valid s.build := by
  refine h.rewrite hi rfl rfl h.k_length h.v_length ?_
  have hle := h.cnt_le
  show s.gen.cnt - 1 ≤ s.build.ri
  bv_omega

theorem State.loadInstance_valid {s : State} {var : BitVec 2} (ha : (s.build.variantInfo var).isSome = true)
    (m : Word) : (s.loadInstance var m).gen.Valid s.build where
  attached := ha
  k_length := List.length_replicate
  v_length := List.length_replicate
  cnt_le := BitVec.le_refl _
  uninstantiated h0 := by simp at h0

end Sys2Proof.Machine
end

section
/-! SUPPORT. What CHECK, CNT_OP and COMPLETE can do, said once, and that every phase of the sequencer keeps the invariant. -/

namespace Sys2Proof.Machine

open Host
open Sys2Proof.Config (Build)

/-! ### CHECK and COMPLETE -/

theorem State.checkInst_attached {s : State} {pers override : Bool} {var : BitVec 2} {m : Word}
    (h : s.checkInst pers override var = .ok m) : (s.build.variantInfo var).isSome = true := by
  rcases execInst_cases s pers override var with ⟨info, _, hi, -, -⟩ | ⟨e, hne, he⟩
  · simp [hi]
  · simp only [execInst, h, Outcome.next.injEq] at he
    exact absurd (congrArg (·.win.err) he).symm hne

theorem State.checkRsd_inst {s : State} (h : s.checkRsd = none) : s.gen.inst = true := by
  rcases execRsd_cases s with ⟨hi, -⟩ | ⟨e, hne, he⟩
  · exact hi
  · simp only [execRsd, h, Outcome.next.injEq] at he
    exact absurd (congrArg (·.win.err) he).symm hne

/-- How CHECK leaves a state (R153). -/
inductive CheckExit (s : State) : State → Prop where
  | finish (e : ErrKind) : CheckExit s (s.finishWith e)
  | inst (pers : Bool) (var : BitVec 2) (m : Word) (ha : (s.build.variantInfo var).isSome = true) :
      CheckExit s ((s.loadInstance var m).enterUpdate .instSeed (some (s.instSeed pers)))
  | gen (add : Bool) (hr : GenReady s add) : CheckExit s ((s.startGen none).goto .genBlock)
  | genAdd (add : Bool) (a : Bytes) (hr : GenReady s add) :
      CheckExit s ((s.startGen (some a)).enterUpdate .genPre (some a))
  | rsd (hi : s.gen.inst = true) : CheckExit s (s.enterUpdate .rsdSeed (some s.rsdSeed))
  | rdst (hd : s.build.debugAccess = true) : CheckExit s (s.showKV.showCnt.finishWith .ok)
  | zero : CheckExit s (s.wipe.finishWith .ok)

theorem State.enterGenerate_exit (s : State) (add : Bool) : CheckExit s (s.enterGenerate add) := by
  unfold State.enterGenerate
  split
  · exact .finish _
  · next hc =>
    have hr := (s.checkGen_none_iff add).mp hc
    cases add with
    | false => exact .gen false hr
    | true => exact .genAdd true s.operand0 hr

theorem State.seqCheck_exit (s : State) : CheckExit s s.seqCheck := by
  unfold State.seqCheck
  split
  · exact .finish _
  · next i hd =>
    have hw := decode_debug hd
    cases i with
    | nop => exact .finish _
    | inst pers override var =>
      dsimp only
      split
      · exact .finish _
      · next m hm => exact .inst pers var m (State.checkInst_attached hm)
    | gen add => exact s.enterGenerate_exit add
    | gens add => exact s.enterGenerate_exit add
    | rsd =>
      dsimp only
      split
      · exact .finish _
      · next hc => exact .rsd (State.checkRsd_inst hc)
    | rdst => exact .rdst hw
    | zero => exact .zero

/-- COMPLETE only completes, but for a GENS, whose build has DEBUG_ACCESS (R121, R153). -/
theorem State.seqComplete_cases (s : State) :
    s.seqComplete = s.complete s.seq.outcome ∨
      (s.build.debugAccess = true ∧ s.seqComplete = s.showKV.complete s.seq.outcome) := by
  unfold State.seqComplete
  split
  · next hd _ => exact .inr ⟨decode_debug hd, rfl⟩
  · exact .inl rfl

/-! ### The sequencer -/

/-- A step that leaves the build, the variant and TBUF alone keeps TBUF's part. -/
theorem State.TbufValid.congr {s t : State} (h : s.TbufValid) (hb : t.build = s.build)
    (hv : t.gen.variant = s.gen.variant) (ht : t.seq.tbuf = s.seq.tbuf) : t.TbufValid :=
  ⟨by rw [hb, hv, ht]; exact h.blocks, by rw [hb, hv, ht]; exact h.le⟩

theorem State.TbufValid.of_nil {s : State} (ht : s.seq.tbuf = []) : s.TbufValid :=
  ⟨by simp [ht], by simp [ht]⟩

/-- One more block, where TBUF was too short for the request. -/
theorem State.genBlock_tbufValid {s : State} (h : s.TbufValid) (hn : s.seq.nreq.toNat ≤ s.build.maxOutLen)
    (hs : s.seq.tbuf.length < s.seq.nreq.toNat) : s.genBlock.TbufValid := by
  have hlen : s.genBlock.seq.tbuf.length = s.seq.tbuf.length + s.build.digestLen s.gen.variant := by
    simp [State.hmac_eq]
  constructor
  · rw [hlen]
    exact Nat.dvd_add h.blocks (Nat.dvd_refl _)
  · rw [hlen]
    simp only [State.genBlock_build, State.genBlock_gen_variant]
    omega

/-- An update hands over to its caller what that caller relies on (R150). -/
theorem State.UpdateValid.returns {s : State} (h : s.UpdateValid) : s.ValidIn s.seq.uret.phase := by
  cases hu : s.seq.uret with
  | instSeed => trivial
  | genPre => exact ⟨h.inst, h.genPre hu⟩
  | genPost => exact ⟨h.inst, h.genPost⟩
  | rsdSeed => exact ⟨h.inst, h.genPost⟩

/-- A finished command has all of `Inv` where its generator state and window are valid. -/
theorem State.complete_inv {b : Build} (x : State) (hx : x.build = b) (hb : b.wf = true) (hg : x.gen.Valid b)
    (hw : x.win.Valid b) (c : ErrKind) : Inv (x.complete c) := by
  subst hx
  exact InvParts.inv {
    build_wf := hb
    gen := by simpa using hg
    win := State.complete_valid hw c
    quiet := fun h => absurd rfl h
    tbuf := .of_nil rfl
    phase := ⟨rfl, rfl, rfl, rfl⟩ }

theorem State.startGen_pending {s : State} {add : Bool} (hr : GenReady s add) (ho : s.win.outLen = 0) (a : Opt) :
    (s.startGen a).Pending ∧ (s.startGen a).seq.tbuf.length < (s.startGen a).seq.nreq.toNat :=
  ⟨⟨hr.cnt, hr.arg_pos, hr.arg_le, ho⟩, Nat.pos_of_ne_zero fun h0 => hr.arg_pos (BitVec.eq_of_toNat_eq h0)⟩

/-- A step out of CHECK, where TBUF is empty, keeps the invariant if it keeps the parts it writes. -/
theorem InvParts.of_check {s t : State} (h : InvParts s) (hp : s.seq.phase = .check) (hb : t.build = s.build)
    (hg : t.gen.Valid s.build) (hw : t.win.Valid s.build) (hd : t.win.done = s.win.done) (he : t.win.err = s.win.err)
    (ht : t.seq.tbuf = []) (hv : t.ValidIn t.seq.phase) : InvParts t where
  build_wf := hb ▸ h.build_wf
  gen := hb ▸ hg
  win := hb ▸ hw
  quiet _ := by
    have hq := h.quiet (by simp [hp])
    exact ⟨hd.trans hq.1, he.trans hq.2⟩
  tbuf := .of_nil ht
  phase := hv

theorem CheckExit.keeps {s t : State} (h : CheckExit s t) (hs : InvParts s) (hp : s.seq.phase = .check) :
    InvParts t := by
  obtain ⟨ht, ho⟩ : s.ValidIn .check := hp ▸ hs.phase
  cases h with
  | finish e => exact hs.of_check hp rfl hs.gen hs.win rfl rfl ht trivial
  | inst pers var m ha =>
    exact hs.of_check hp rfl (State.loadInstance_valid ha m) hs.win rfl rfl ht ⟨rfl, nofun, nofun⟩
  | gen add hr => exact hs.of_check hp rfl hs.gen hs.win rfl rfl rfl ⟨hr.inst, State.startGen_pending hr ho none⟩
  | genAdd add a hr =>
    exact hs.of_check hp rfl hs.gen hs.win rfl rfl rfl ⟨hr.inst, fun _ => State.startGen_pending hr ho (some a), nofun⟩
  | rsd hi => exact hs.of_check hp rfl hs.gen hs.win rfl rfl ht ⟨hi, nofun, nofun⟩
  | rdst hd =>
    refine hs.of_check hp (by simp) (by simpa using hs.gen) ?_ (by simp) (by simp) (by simpa using ht) trivial
    rw [State.finishWith_win]
    exact State.showCnt_valid (State.showKV_valid hs.win hd) hd
  | zero => exact hs.of_check hp rfl (Gen.reset_valid s.build) hs.win rfl rfl ht trivial

/-- CNT_OP: the three callers that lead there do one of the counter operations, or none (R150, R173, R174). -/
theorem State.seqCount_cases (s : State) :
    (s.seq.uret = .genPost ∧ s.seqCount = s.decrementCnt) ∨ s.seqCount = s.reloadCnt ∨ s.seqCount = s := by
  unfold State.seqCount
  split
  · next hu => exact .inl ⟨hu, rfl⟩
  · exact .inr (.inl rfl)
  · exact .inr (.inr rfl)
  · exact .inr (.inr rfl)

/-- What a phase relies on does not speak of the phase itself. -/
theorem State.ValidIn.goto {s : State} {p : Phase} (h : s.ValidIn p) (q : Phase) : (s.goto q).ValidIn p := by
  cases p
  case updK0 | updV0 | updK1 | updV1 => exact ⟨h.inst, h.genPre, h.genPost⟩
  all_goals exact h

/-- A phase that writes K goes on with the update. -/
theorem InvParts.rekey {s : State} (h : InvParts s) (hp : s.seq.phase ≠ .idle) (hu : s.UpdateValid) (m : Bytes)
    {p : Phase} (hv : (s.rekey m).UpdateValid → (s.rekey m).ValidIn p) : InvParts ((s.rekey m).goto p) where
  build_wf := h.build_wf
  gen := State.rekey_valid h.gen hu.inst m
  win := h.win
  quiet _ := h.quiet hp
  tbuf := ⟨h.tbuf.blocks, h.tbuf.le⟩
  phase := (hv ⟨hu.inst, hu.genPre, hu.genPost⟩).goto p

/-- A phase that writes V goes on with the update or returns from it. -/
theorem InvParts.chain {s : State} (h : InvParts s) (hp : s.seq.phase ≠ .idle) (hu : s.UpdateValid) {p : Phase}
    (hv : s.chain.UpdateValid → s.chain.ValidIn p) : InvParts (s.chain.goto p) where
  build_wf := h.build_wf
  gen := State.chain_valid h.gen hu.inst
  win := h.win
  quiet _ := h.quiet hp
  tbuf := ⟨h.tbuf.blocks, h.tbuf.le⟩
  phase := (hv ⟨hu.inst, hu.genPre, hu.genPost⟩).goto p

/-- A pass of the generate loop goes on while TBUF is too short (R153). -/
theorem InvParts.genBlock {s : State} (h : InvParts s) (hp : s.seq.phase = .genBlock) :
    InvParts (s.genBlock.goto (if s.genBlock.wantsBlock then .genBlock else .genTrunc)) := by
  obtain ⟨hi, hP, hs⟩ : s.ValidIn .genBlock := hp ▸ h.phase
  have ht := State.genBlock_tbufValid h.tbuf hP.nreq_le hs
  refine ⟨h.build_wf, State.chain_valid h.gen hi, h.win, fun _ => h.quiet (by simp [hp]), ⟨ht.blocks, ht.le⟩, ?_⟩
  rw [State.goto_seq_phase]
  split
  · next hw => exact ⟨hi, hP, of_decide_eq_true hw⟩
  · exact ⟨hi, hP⟩

/-- CNT_OP leaves CNT within its bound and keeps all else (R170, R173). -/
theorem InvParts.seqCount {s : State} (h : InvParts s) (hp : s.seq.phase = .cntOp) :
    InvParts (s.seqCount.goto .complete) := by
  obtain ⟨hi, hc⟩ : s.ValidIn .cntOp := hp ▸ h.phase
  have hq : s.win.Quiet := h.quiet (by simp [hp])
  have ht := h.tbuf
  rcases s.seqCount_cases with ⟨hu, he⟩ | he | he <;> rw [he]
  · have hd := State.decrementCnt_valid h.gen hi (hc hu)
    exact ⟨h.build_wf, hd, h.win, fun _ => hq, ⟨ht.blocks, ht.le⟩, trivial⟩
  · have hr := State.reloadCnt_valid s h.gen hi
    exact ⟨h.build_wf, hr, h.win, fun _ => hq, ⟨ht.blocks, ht.le⟩, trivial⟩
  · exact ⟨h.build_wf, h.gen, h.win, fun _ => hq, ⟨ht.blocks, ht.le⟩, trivial⟩

/-- GEN_TRUNC serves the request and enters the last update (R153). -/
theorem InvParts.genTrunc {s : State} (h : InvParts s) (hp : s.seq.phase = .genTrunc) :
    InvParts (s.genTrunc.enterUpdate .genPost s.seq.adata) := by
  obtain ⟨hi, hP⟩ : s.ValidIn .genTrunc := hp ▸ h.phase
  exact ⟨h.build_wf, h.gen, State.genTrunc_valid h.win hP.outLen_eq hP.nreq_le, fun _ => h.quiet (by simp [hp]),
    ⟨h.tbuf.blocks, h.tbuf.le⟩, hi, nofun, fun _ => hP.cnt_ne⟩

theorem InvParts.seqComplete {s : State} (h : InvParts s) : Inv s.seqComplete := by
  rcases s.seqComplete_cases with he | ⟨hd, he⟩ <;> rw [he]
  · exact State.complete_inv s rfl h.build_wf h.gen h.win _
  · have hg : s.showKV.gen.Valid s.build := by simpa using h.gen
    exact State.complete_inv s.showKV (by simp) h.build_wf hg (State.showKV_valid h.win hd) _

/-- Every phase keeps the invariant (R150, R153). -/
theorem seqStep_keeps {s : State} (h : InvParts s) : InvParts (seqStep s) := by
  have hv := h.phase
  unfold seqStep
  cases hp : s.seq.phase <;> rw [hp] at hv
  case idle => exact h
  case check => exact s.seqCheck_exit.keeps h hp
  case updK0 | updK1 => exact h.rekey (by simp [hp]) hv _ fun hu => hu
  case updV0 =>
    refine h.chain (by simp [hp]) hv fun hu => ?_
    split
    · exact hu.returns
    · exact hu
  case updV1 => exact h.chain (by simp [hp]) hv fun hu => hu.returns
  case genBlock => exact h.genBlock hp
  case genTrunc => exact h.genTrunc hp
  case cntOp => exact h.seqCount hp
  case complete => exact h.seqComplete.parts

end Sys2Proof.Machine
end

section
/-! SUPPORT. What a whole command and a host statement can do to the window and the generator state, and that every step of
the machine keeps the invariant. -/

namespace Sys2Proof.Machine

open Host
open Sys2Proof.Config (Build)

/-! ### Commands -/

/-- What a generate that passed its checks stores in OUT: TBUF after the loop, cut to the request (R210). -/
def State.generated (add : Bool) (s : State) : Bytes :=
  let a := s.additionalInput add
  let s1 := (s.startGen a).preUpdate a
  (s1.genLoop s1.seq.nreq.toNat).seq.tbuf.take s.win.arg.toNat

theorem State.generated_length_le (s : State) (add : Bool) : (s.generated add).length ≤ s.win.arg.toNat :=
  List.length_take_le _ _

/-- A generate writes OUT and OUTLEN of the window and nothing else of it (R216). -/
theorem State.generate_win (s : State) (add : Bool) : (s.generate add).win =
    { s.win with outLen := s.win.arg, mem := (s.storeBuf .out (s.generated add)).win.mem } := by
  obtain ⟨hb, hw, -, -, -, -, -, -, -, -, hn⟩ :=
    (s.startGen (s.additionalInput add)).preUpdate_frame (s.additionalInput add)
  simp only [State.startGen_build, State.startGen_win, State.startGen_seq_nreq] at hb hw hn
  unfold State.generate
  simp only [State.decrementCnt_win, State.update_win]
  unfold State.genTrunc State.storeBuf
  simp only [State.genLoop_win, State.genLoop_build, State.genLoop_nreq, hb, hw, hn, State.generated]

@[simp] theorem State.generate_build (s : State) (add : Bool) : (s.generate add).build = s.build :=
  (s.generate_frame add).1

@[simp] theorem State.generate_dbgCntLo (s : State) (add : Bool) :
    (s.generate add).win.dbgCntLo = s.win.dbgCntLo := by rw [State.generate_win]

@[simp] theorem State.generate_dbgCntHi (s : State) (add : Bool) :
    (s.generate add).win.dbgCntHi = s.win.dbgCntHi := by rw [State.generate_win]

/-- A generate takes one off the counter and keeps every other field but K and V (R217). -/
theorem State.generate_fields (s : State) (add : Bool) :
    (s.generate add).gen.cnt = s.gen.cnt - 1 ∧ (s.generate add).gen.inst = s.gen.inst ∧
      (s.generate add).gen.variant = s.gen.variant ∧ (s.generate add).gen.minEnt = s.gen.minEnt := by
  obtain ⟨-, -, -, -, hi, hv, hm, hc, -⟩ := s.generate_frame add
  exact ⟨hc, hi, hv, hm⟩

theorem State.generate_lengths (s : State) (add : Bool) :
    (s.generate add).gen.k.length = s.build.digestLen s.gen.variant ∧
      (s.generate add).gen.v.length = s.build.digestLen s.gen.variant := by
  obtain ⟨hb, -, -, -, -, hv, -⟩ := (s.startGen (s.additionalInput add)).preUpdate_frame (s.additionalInput add)
  simp only [State.startGen_build, State.startGen_gen] at hb hv
  unfold State.generate
  simp only [State.decrementCnt_gen_k, State.decrementCnt_gen_v, State.update_lengths, State.genTrunc_build,
    State.genTrunc_gen, State.genLoop_build, State.genLoop_variant, hb, hv, and_self]

theorem State.generate_valid {s : State} {add : Bool} (hg : s.gen.Valid s.build) (hw : s.win.Valid s.build)
    (ho : s.win.outLen = 0) (hr : GenReady s add) :
    (s.generate add).gen.Valid s.build ∧ (s.generate add).win.Valid s.build := by
  obtain ⟨hc, hi, hv, -⟩ := s.generate_fields add
  obtain ⟨hk, hl⟩ := s.generate_lengths add
  constructor
  · refine hg.rewrite hr.inst hi hv hk hl ?_
    have hle := hg.cnt_le
    have hne := hr.cnt
    rw [hc]
    bv_omega
  · rw [s.generate_win add]
    have hm := hw.mem
    rw [ho] at hm
    exact ⟨State.storeBuf_out_valid hm (s.generated_length_le add), hr.arg_le, hw.dbgCnt_hidden⟩

/-- A command that ISSUE has cleared the outputs for leaves a state with the invariant, whatever its outcome. -/
theorem exec_inv {i : Instr} (s : State) {t : State} (hb : s.build.wf = true) (hg : s.gen.Valid s.build)
    (hw : s.win.Valid s.build) (ho : s.win.outLen = 0) (h : exec i s = .next t) : Inv t := by
  have ends (x : State) (e : ErrKind) (hx : x.build = s.build) (hgx : x.gen.Valid s.build)
      (hwx : x.win.Valid s.build) (he : exec i s = .next (x.complete e)) : Inv t := by
    rw [← Outcome.next.inj (he.symm.trans h)]
    exact State.complete_inv x hx hb hgx hwx e
  cases i with
  | nop => exact ends s .ok rfl hg hw (exec_nop s)
  | zero => exact ends s.wipe .ok (by simp) (Gen.reset_valid s.build) hw (exec_zero s)
  | rdst =>
    rcases execRdst_cases s with ⟨hd, he⟩ | ⟨-, he⟩
    · exact ends _ _ (by simp) (by simpa using hg) (State.showCnt_valid (State.showKV_valid hw hd) hd) he
    · exact ends s _ rfl hg hw he
  | inst p o v =>
    rcases execInst_cases s p o v with ⟨info, m, ha, -, he⟩ | ⟨e, -, he⟩
    · have hl := State.loadInstance_valid (Option.isSome_of_eq_some ha) m
      exact ends _ _ (by simp) ((s.loadInstance v m).update_valid hl rfl _ _) (by simpa using hw) he
    · exact ends s e rfl hg hw he
  | rsd =>
    rcases execRsd_cases s with ⟨hi, he⟩ | ⟨e, -, he⟩
    · have hu := s.update_valid hg hi .rsdSeed (some s.rsdSeed)
      have hr := (s.update .rsdSeed (some s.rsdSeed)).reloadCnt_valid (by simpa using hu) (by simpa using hi)
      exact ends _ _ (by simp) (by simpa using hr) (by simpa using hw) he
    · exact ends s e rfl hg hw he
  | gen add =>
    rcases execGen_cases s add with ⟨hr, he⟩ | ⟨-, e, -, he⟩
    · obtain ⟨hg', hw'⟩ := State.generate_valid hg hw ho hr
      exact ends _ _ (s.generate_build add) hg' hw' he
    · exact ends s e rfl hg hw he
  | gens add =>
    rcases execGens_cases s add with ⟨hd, hr, he⟩ | ⟨-, e, -, he⟩
    · obtain ⟨hg', hw'⟩ := State.generate_valid hg hw ho hr
      have hb' := s.generate_build add
      have hk : (s.generate add).showKV.win.Valid s.build :=
        hb' ▸ State.showKV_valid (s := s.generate add) (hb' ▸ hw') (hb' ▸ hd)
      exact ends _ _ (by simp) (by simpa using hg') hk he
    · exact ends s e rfl hg hw he

/-- ISSUE on an idle block keeps the invariant (R261). -/
theorem State.issue_parts {s : State} (h : Inv s) (hidle : s.busy = false) (w : Word) : InvParts (s.issue w) where
  build_wf := by rw [State.issue_build]; exact h.build_wf
  gen := by simpa using h.parts.gen
  win := by rw [State.issue_build]; exact State.issue_valid h.parts.win w
  quiet _ := ⟨rfl, rfl⟩
  tbuf := .of_nil (by simpa using (h.idle_clear hidle).1)
  phase := ⟨by simpa using (h.idle_clear hidle).1, rfl⟩

theorem startCommand_inv {s t : State} {w : Word} (h : Inv s) (hidle : s.busy = false)
    (ht : startCommand w s = .next t) : Inv t := by
  have hp := State.issue_parts h hidle w
  unfold startCommand at ht
  split at ht
  · rcases runCommand_cases (s.issue w) with ⟨i, -, hi⟩ | ⟨_, -, hill⟩
    · exact exec_inv (s.issue w) hp.build_wf hp.gen hp.win (s.issue_win_outLen w) (hi.symm.trans ht)
    · rw [← Outcome.next.inj (hill.symm.trans ht)]
      exact State.complete_inv (s.issue w) rfl hp.build_wf hp.gen hp.win _
  · rw [← Outcome.next.inj ht]
    exact hp.inv

/-! ### Host statements -/

/-- What a host access other than a write to CMD can do to a window: the operand registers and operand bytes may change, and
no more (R87, R88). -/
structure OperandWrite (b : Build) (w w' : Window) : Prop where
  outLen : w'.outLen = w.outLen
  dbgCntLo : w'.dbgCntLo = w.dbgCntLo
  dbgCntHi : w'.dbgCntHi = w.dbgCntHi
  done : w'.done = w.done
  err : w'.err = w.err
  mem_wf : w.mem.wf = true → w'.mem.wf = true
  mem_new : ∀ c ∈ w'.mem, inputByte b c.1 = true ∨ c ∈ w.mem
  read : ∀ a, inputByte b a = false → w'.mem.read a = w.mem.read a

theorem OperandWrite.refl (b : Build) (w : Window) : OperandWrite b w w :=
  ⟨rfl, rfl, rfl, rfl, rfl, id, fun _ => .inr, fun _ _ => rfl⟩

theorem OperandWrite.byte {b : Build} {w : Window} {a : Nat} (ha : inputByte b a = true) (x : Byte) :
    OperandWrite b w { w with mem := w.mem.write a x } where
  outLen := rfl
  dbgCntLo := rfl
  dbgCntHi := rfl
  done := rfl
  err := rfl
  mem_wf := Memory.wf_write a x
  mem_new c hc := (Memory.mem_write hc).imp_left fun h => by rw [h]; exact ha
  read y hy := Memory.read_write_other _ x fun h => by simp [h, ha] at hy

theorem OperandWrite.trans {b : Build} {w w' w'' : Window} (h : OperandWrite b w w') (h' : OperandWrite b w' w'') :
    OperandWrite b w w'' where
  outLen := h'.outLen.trans h.outLen
  dbgCntLo := h'.dbgCntLo.trans h.dbgCntLo
  dbgCntHi := h'.dbgCntHi.trans h.dbgCntHi
  done := h'.done.trans h.done
  err := h'.err.trans h.err
  mem_wf hw := h'.mem_wf (h.mem_wf hw)
  mem_new c hc := (h'.mem_new c hc).elim .inl (h.mem_new c)
  read a ha := (h'.read a ha).trans (h.read a ha)

theorem State.writeReg_operandWrite (r : Reg) (x : Word) (s : State) :
    OperandWrite s.build s.win (s.writeReg r x).win := by
  cases r <;> exact ⟨rfl, rfl, rfl, rfl, rfl, id, fun _ => .inr, fun _ _ => rfl⟩

/-- A register write changes the window alone. -/
theorem State.writeReg_frame (r : Reg) (x : Word) (s : State) :
    (s.writeReg r x).build = s.build ∧ (s.writeReg r x).gen = s.gen ∧ (s.writeReg r x).seq = s.seq := by
  cases r <;> exact ⟨rfl, rfl, rfl⟩

theorem State.writeLanes_operandWrite (off : Nat) (x : Word) (is : List Nat) (s : State) :
    OperandWrite s.build s.win (s.writeLanes off x is).win := by
  induction is generalizing s with
  | nil => exact .refl _ _
  | cons i is ih =>
    unfold State.writeLanes
    split
    · next hi =>
      exact (OperandWrite.byte hi (laneOf x i)).trans
        (ih { s with win.mem := s.win.mem.write (off + i) (laneOf x i) })
    · exact ih s

/-- The build, the generator state, the hidden state and the register file are the same in two states. -/
structure BlockKept (s t : State) : Prop where
  build : t.build = s.build
  gen : t.gen = s.gen
  seq : t.seq = s.seq
  win : t.win = s.win

theorem withRead_next {r : Outcome (Word × State) Fault Refusal} {f : Word → State → State} {t : State}
    (h : withRead r f = .next t) : ∃ x u, r = .next (x, u) ∧ t = f x u := by
  unfold withRead at h
  split at h <;> cases h
  exact ⟨_, _, rfl, rfl⟩

/-- No read has an effect on the block (R88). -/
theorem busRead_blockKept {off : Nat} {size : AccessSize} {s t : State} {x : Word}
    (h : busRead off size s = .next (x, t)) : BlockKept s t := by
  rcases busRead_next h with ⟨-, -, rfl⟩ | ⟨-, -, rfl⟩ <;> exact ⟨rfl, rfl, rfl, rfl⟩

/-- A host statement issues a command on an idle block, or writes operands, or leaves the block alone (R87, R88, R126). -/
theorem hostExec_cases {st : HostStmt} {s t : State} (h : hostExec st s = .next t) :
    (∃ w, s.busy = false ∧ startCommand w s.hostAdvance = .next t) ∨
      (t.build = s.build ∧ t.gen = s.gen ∧ t.seq = s.seq ∧ OperandWrite s.build s.win t.win) := by
  have kept (hk : BlockKept s t) :
      t.build = s.build ∧ t.gen = s.gen ∧ t.seq = s.seq ∧ OperandWrite s.build s.win t.win :=
    ⟨hk.build, hk.gen, hk.seq, hk.win ▸ .refl _ _⟩
  cases st with
  | write off size x =>
    rcases busWrite_next h with ⟨-, hb, hc⟩ | ⟨r, -, -, -, rfl⟩ | ⟨-, -, rfl⟩
    · exact .inl ⟨x, hb, hc⟩
    · obtain ⟨hb, hg, hq⟩ := s.hostAdvance.writeReg_frame r x
      exact .inr ⟨hb, hg, hq, s.hostAdvance.writeReg_operandWrite r x⟩
    · obtain ⟨hb, hg, hq, -⟩ := s.hostAdvance.writeLanes_frame off x (List.range size.bytes)
      exact .inr ⟨hb, hg, hq, s.hostAdvance.writeLanes_operandWrite off x _⟩
  | read off size =>
    obtain ⟨x, u, hr, rfl⟩ := withRead_next h
    obtain ⟨hb, hg, hq, hw⟩ := busRead_blockKept hr
    exact .inr (kept ⟨hb, hg, hq, hw⟩)
  | wait =>
    obtain ⟨x, u, hr, rfl⟩ := withRead_next h
    obtain ⟨hb, hg, hq, hw⟩ := busRead_blockKept hr
    refine .inr (kept ?_)
    split <;> exact ⟨hb, hg, hq, hw⟩
  | jeq off hi lo value target =>
    obtain ⟨x, u, hr, rfl⟩ := withRead_next h
    obtain ⟨hb, hg, hq, hw⟩ := busRead_blockKept hr
    refine .inr (kept ?_)
    split <;> exact ⟨hb, hg, hq, hw⟩
  | jmp target =>
    cases h
    exact .inr (kept ⟨rfl, rfl, rfl, rfl⟩)

theorem OperandWrite.valid {b : Build} {w w' : Window} (h : OperandWrite b w w') (hb : b.wf = true)
    (hw : w.Valid b) : w'.Valid b where
  mem := by
    rw [h.outLen]
    exact hw.mem.of_inputs hb h.mem_wf h.mem_new h.read
  outLen_le := h.outLen ▸ hw.outLen_le
  dbgCnt_hidden := by
    rw [h.dbgCntLo, h.dbgCntHi]
    exact hw.dbgCnt_hidden

theorem State.ValidIn.congr {s t : State} {p : Phase} (h : s.ValidIn p) (hb : t.build = s.build) (hg : t.gen = s.gen)
    (hq : t.seq = s.seq) (ho : t.win.outLen = s.win.outLen) : t.ValidIn p := by
  cases p
  case updK0 | updV0 | updK1 | updV1 =>
    exact ⟨by rw [hg]; exact h.inst, by rw [State.Pending, hb, hg, hq, ho]; exact h.genPre,
      by rw [hg, hq]; exact h.genPost⟩
  case complete => trivial
  all_goals simpa only [State.ValidIn, State.Pending, hb, hg, hq, ho] using h

/-- A step that writes operands at most keeps the invariant. -/
theorem OperandWrite.inv {s t : State} (h : OperandWrite s.build s.win t.win) (hs : Inv s) (hb : t.build = s.build)
    (hg : t.gen = s.gen) (hq : t.seq = s.seq) : Inv t :=
  have hp := hs.parts
  InvParts.inv {
    build_wf := hb ▸ hs.build_wf
    gen := by rw [hb, hg]; exact hp.gen
    win := hb ▸ h.valid hs.build_wf hp.win
    quiet := fun hi => ⟨h.done.trans (hp.quiet (hq ▸ hi)).1, h.err.trans (hp.quiet (hq ▸ hi)).2⟩
    tbuf := hp.tbuf.congr hb (by rw [hg]) (by rw [hq])
    phase := by rw [hq]; exact hp.phase.congr hb hg hq h.outLen }

/-- The invariant does not speak of the host or of the model's records. -/
theorem BlockKept.inv {s t : State} (h : BlockKept s t) (hs : Inv s) : Inv t :=
  OperandWrite.inv (h.win ▸ .refl _ _) hs h.build h.gen h.seq

theorem hostStep_inv {s t : State} (h : Inv s) (ht : hostStep s = .next t) : Inv t := by
  unfold hostStep at ht
  split at ht
  · rcases hostExec_cases ht with ⟨w, hb, hc⟩ | ⟨hb, hg, hq, hw⟩
    · have ha : BlockKept s s.hostAdvance := ⟨rfl, rfl, rfl, rfl⟩
      exact startCommand_inv (ha.inv h) hb hc
    · exact hw.inv h hb hg hq
  · cases ht
    exact h

theorem State.resetBlock_inv {s : State} (hb : s.build.wf = true) : Inv s.resetBlock :=
  InvParts.inv ⟨hb, Gen.reset_valid s.build, Window.reset_valid s.build, fun h => absurd rfl h, .of_nil rfl,
    rfl, rfl, rfl, rfl⟩

/-- Settles O34: the host, the sequencer and reset each keep the invariant. -/
theorem invariantIsKept : Obligations.InvariantIsKept := by
  intro s t h hstep
  obtain ⟨turn, ts, he⟩ := step_turn s
  rw [he] at hstep
  have hk : BlockKept s { s with host := { s.host with turns := ts } } := ⟨rfl, rfl, rfl, rfl⟩
  have hi := hk.inv h
  cases turn with
  | host => exact hostStep_inv hi hstep
  | sequencer =>
    cases hstep
    exact (seqStep_keeps hi.parts).inv
  | reset =>
    cases hstep
    exact State.resetBlock_inv h.build_wf

/-- Settles O35: a reset of any state of the build gives the reset state's block. -/
theorem invariantHoldsAtReset : Obligations.InvariantHoldsAtReset :=
  fun b hb => State.resetBlock_inv (s := State.resetOf b) hb

end Sys2Proof.Machine
end

section
/-! SUPPORT. What the commands write of the generator state, of the outputs and of the counter (10_state.md rules R32, R33,
R48 to R50). -/

namespace Sys2Proof.Machine

open Host
open Sys2Proof.Config (Build)

/-! ### The generator state -/

/-- Settles O28: what each command's cases write, a completion adding nothing to the generator state. -/
theorem commandsWriteOnlyTheirFields : Obligations.CommandsWriteOnlyTheirFields := by
  intro i s t h
  cases i with
  | nop =>
    cases h
    rfl
  | zero =>
    cases h
    rfl
  | rdst =>
    rcases execRdst_cases s with ⟨-, he⟩ | ⟨-, he⟩ <;> rw [← Outcome.next.inj (he.symm.trans h)]
    · simp
    · simp
  | inst p o v =>
    rcases execInst_cases s p o v with ⟨_, m, -, -, he⟩ | ⟨e, -, he⟩ <;> rw [← Outcome.next.inj (he.symm.trans h)]
    · exact .inl (by simp)
    · exact .inr (by simp)
  | rsd =>
    rcases execRsd_cases s with ⟨-, he⟩ | ⟨e, -, he⟩ <;> rw [← Outcome.next.inj (he.symm.trans h)]
    · exact .inr (by simp)
    · exact .inl (by simp)
  | gen add =>
    rcases execGen_cases s add with ⟨hr, he⟩ | ⟨-, e, -, he⟩ <;> rw [← Outcome.next.inj (he.symm.trans h)]
    · exact .inr ⟨hr.cnt, by simpa using s.generate_fields add⟩
    · exact .inl (by simp)
  | gens add =>
    rcases execGens_cases s add with ⟨-, hr, he⟩ | ⟨-, e, -, he⟩ <;> rw [← Outcome.next.inj (he.symm.trans h)]
    · exact .inr ⟨hr.cnt, by simpa using s.generate_fields add⟩
    · exact .inl (by simp)

/-! ### The counter -/

/-- The counter is kept, reloaded, cleared or decremented without wrapping (R33, R173 to R175). -/
def CounterStep (b : Build) (c c' : BitVec 64) : Prop :=
  c' = c ∨ c' = b.ri ∨ c' = 0 ∨ c.toNat = c'.toNat + 1

theorem CounterStep.kept {b : Build} {g g' : Gen} (h : g' = g) : CounterStep b g.cnt g'.cnt := .inl (by rw [h])

theorem CounterStep.reloaded {b : Build} {c c' : BitVec 64} (h : c' = b.ri) : CounterStep b c c' := .inr (.inl h)

theorem CounterStep.cleared {b : Build} {c c' : BitVec 64} (h : c' = 0) : CounterStep b c c' := .inr (.inr (.inl h))

theorem CounterStep.decremented {b : Build} {c c' : BitVec 64} (h : c ≠ 0) (h' : c' = c - 1) : CounterStep b c c' :=
  .inr (.inr (.inr (by rw [h']; bv_omega)))

theorem exec_counterStep {i : Instr} {s t : State} (h : exec i s = .next t) :
    CounterStep s.build s.gen.cnt t.gen.cnt := by
  have hf := commandsWriteOnlyTheirFields i s t h
  cases i with
  | nop | rdst => exact .kept hf
  | inst p o v => exact hf.elim .reloaded .kept
  | gen add | gens add => exact hf.elim .kept fun ⟨hne, hc, _⟩ => .decremented hne hc
  | rsd => exact hf.elim .kept fun ⟨hc, _⟩ => .reloaded hc
  | zero => exact .cleared (congrArg Gen.cnt hf)

theorem startCommand_counterStep {s t : State} {w : Word} (h : startCommand w s = .next t) :
    CounterStep s.build s.gen.cnt t.gen.cnt := by
  unfold startCommand at h
  split at h
  · rcases runCommand_cases (s.issue w) with ⟨i, -, hi⟩ | ⟨_, -, hill⟩
    · simpa using exec_counterStep (hi.symm.trans h)
    · rw [← Outcome.next.inj (hill.symm.trans h)]
      exact .kept (by simp)
  · rw [← Outcome.next.inj h]
    exact .kept (s.issue_gen w)

theorem hostStep_counterStep {s t : State} (h : hostStep s = .next t) : CounterStep s.build s.gen.cnt t.gen.cnt := by
  unfold hostStep at h
  split at h
  · rcases hostExec_cases h with ⟨w, -, hc⟩ | ⟨-, hg, -⟩
    · exact startCommand_counterStep (s := s.hostAdvance) hc
    · exact .kept hg
  · cases h
    exact .kept rfl

theorem CheckExit.counterStep {s t : State} (h : CheckExit s t) : CounterStep s.build s.gen.cnt t.gen.cnt := by
  cases h with
  | finish | gen | genAdd | rsd => exact .kept rfl
  | rdst => exact .kept (by simp)
  | inst => exact .reloaded rfl
  | zero => exact .cleared rfl

/-- CNT_OP and CHECK's exit are the only phases that write CNT. -/
theorem seqStep_counterStep {s : State} (h : Inv s) : CounterStep s.build s.gen.cnt (seqStep s).gen.cnt := by
  have hv := h.validIn
  unfold seqStep
  cases hp : s.seq.phase
  case check => exact s.seqCheck_exit.counterStep
  case cntOp =>
    rw [hp] at hv
    rw [State.goto_gen]
    rcases s.seqCount_cases with ⟨hu, he⟩ | he | he <;> rw [he]
    · exact .decremented (hv.2 hu) rfl
    · exact .reloaded rfl
    · exact .kept rfl
  case complete => rcases s.seqComplete_cases with he | ⟨-, he⟩ <;> exact .kept (by simp [he])
  all_goals exact .inl rfl

/-- Settles O31: the host's commands and the sequencer's CNT_OP change the counter by its rules, and reset clears it. -/
theorem counterChangesOnlyByTheRules : Obligations.CounterChangesOnlyByTheRules := by
  intro s t h hstep
  obtain ⟨turn, ts, he⟩ := step_turn s
  rw [he] at hstep
  have hk : BlockKept s { s with host := { s.host with turns := ts } } := ⟨rfl, rfl, rfl, rfl⟩
  cases turn with
  | host => exact hostStep_counterStep (s := { s with host := { s.host with turns := ts } }) hstep
  | sequencer =>
    cases hstep
    exact seqStep_counterStep (hk.inv h)
  | reset =>
    cases hstep
    exact (.cleared rfl : CounterStep s.build s.gen.cnt 0)

/-! ### The outputs -/

theorem State.complete_read_kept {s x : State} (hb : x.build = s.build) (c : ErrKind) {a : Nat}
    (ha : inputByte s.build a = false) : (x.complete c).win.mem.read a = x.win.mem.read a := by
  rw [State.complete_read, hb, ha]
  rfl

/-- NOP, INST, RSD and ZERO write no output (R48 to R50). -/
theorem exec_outputsKept {i : Instr} {s t : State} (h : exec i s = .next t) (hg : ∀ add, i ≠ .gen add)
    (hs : ∀ add, i ≠ .gens add) (hr : i ≠ .rdst) : OutputsKept s t := by
  cases i with
  | gen add => exact absurd rfl (hg add)
  | gens add => exact absurd rfl (hs add)
  | rdst => exact absurd rfl hr
  | nop => exact Outcome.next.inj h ▸ State.outputsKept_complete rfl rfl _
  | zero => exact Outcome.next.inj h ▸ State.outputsKept_complete s.wipe_build s.wipe_win _
  | inst p o v =>
    rcases execInst_cases s p o v with ⟨_, m, -, -, he⟩ | ⟨e, -, he⟩ <;> rw [← Outcome.next.inj (he.symm.trans h)]
    · exact State.outputsKept_complete (by simp) (by simp) _
    · exact State.outputsKept_complete rfl rfl _
  | rsd =>
    rcases execRsd_cases s with ⟨-, he⟩ | ⟨e, -, he⟩ <;> rw [← Outcome.next.inj (he.symm.trans h)]
    · exact State.outputsKept_complete (by simp) (by simp) _
    · exact State.outputsKept_complete rfl rfl _

/-- GEN writes no output but OUTLEN and OUT (R48). -/
theorem execGen_outputs {add : Bool} {s t : State} (h : execGen add s = .next t) :
    t.win.dbgCntLo = s.win.dbgCntLo ∧ t.win.dbgCntHi = s.win.dbgCntHi ∧
      ∀ a, inputByte s.build a = false → Buf.out.holds s.build a = false →
        t.win.mem.read a = s.win.mem.read a := by
  rcases execGen_cases s add with ⟨-, he⟩ | ⟨-, e, -, he⟩ <;> rw [← Outcome.next.inj (he.symm.trans h)]
  · refine ⟨by simp, by simp, fun a hi ho => ?_⟩
    rw [State.complete_read_kept (by simp) _ hi, State.generate_read_other s add ho]
  · exact ⟨rfl, rfl, fun a hi _ => State.complete_read_kept rfl e hi⟩

/-- GENS writes no output but OUTLEN, OUT, DBG_K and DBG_V (R48, R49). -/
theorem execGens_outputs {add : Bool} {s t : State} (h : execGens add s = .next t) :
    t.win.dbgCntLo = s.win.dbgCntLo ∧ t.win.dbgCntHi = s.win.dbgCntHi ∧
      ∀ a, inputByte s.build a = false → Buf.out.holds s.build a = false → Buf.dbgK.holds s.build a = false →
        Buf.dbgV.holds s.build a = false → t.win.mem.read a = s.win.mem.read a := by
  rcases execGens_cases s add with ⟨-, -, he⟩ | ⟨-, e, -, he⟩ <;> rw [← Outcome.next.inj (he.symm.trans h)]
  · refine ⟨by simp, by simp, fun a hi ho hk hv => ?_⟩
    rw [State.complete_read_kept (by simp) _ hi, State.showKV_read_other _ (by simpa using hk) (by simpa using hv),
      State.generate_read_other s add ho]
  · exact ⟨rfl, rfl, fun a hi _ _ _ => State.complete_read_kept rfl e hi⟩

/-- RDST writes no output but the debug registers (R49, R50). -/
theorem execRdst_outputs {s t : State} (h : execRdst s = .next t) :
    t.win.outLen = s.win.outLen ∧
      ∀ a, inputByte s.build a = false → Buf.dbgK.holds s.build a = false →
        Buf.dbgV.holds s.build a = false → t.win.mem.read a = s.win.mem.read a := by
  rcases execRdst_cases s with ⟨-, he⟩ | ⟨-, he⟩ <;> rw [← Outcome.next.inj (he.symm.trans h)]
  · refine ⟨by simp, fun a hi hk hv => ?_⟩
    rw [State.complete_read_kept (by simp) _ hi, State.showCnt_win_mem, State.showKV_read_other s hk hv]
  · exact ⟨rfl, fun a hi _ _ => State.complete_read_kept rfl _ hi⟩

/-- A byte of OUT is no byte of another buffer. -/
theorem out_only {b : Build} (hb : b.wf = true) {a : Nat} (h : Buf.out.holds b a = true) :
    inputByte b a = false ∧ Buf.dbgK.holds b a = false ∧ Buf.dbgV.holds b a = false := by
  refine ⟨not_inputByte hb ?_, not_debug_of_out h⟩
  simp only [Buf.holds_iff, Buf.offset] at h
  omega

/-- A byte of DBG_K or DBG_V is no byte of the operand buffers or of OUT. -/
theorem debug_only {b : Build} (hb : b.wf = true) {a : Nat} (h : Buf.dbgK.holds b a = true ∨ Buf.dbgV.holds b a = true) :
    inputByte b a = false ∧ Buf.out.holds b a = false := by
  simp only [Buf.holds_iff, Buf.offset, Buf.size, Config.dlMax] at h
  refine ⟨not_inputByte hb (by omega), ?_⟩
  simp only [Buf.not_holds_iff, Buf.offset]
  omega

theorem not_bufferByte_iff {b : Build} {a : Nat} : bufferByte b a = false ↔
    inputByte b a = false ∧ Buf.dbgK.holds b a = false ∧ Buf.dbgV.holds b a = false ∧ Buf.out.holds b a = false := by
  simp [bufferByte, outputByte, and_assoc]

/-- Settles O29: each command's own outputs, and that the buffers do not overlap. -/
theorem commandsKeepTheOtherOutputs : Obligations.CommandsKeepTheOtherOutputs := by
  intro i s t hb h
  cases i with
  | gen add =>
    obtain ⟨hlo, hhi, hread⟩ := execGen_outputs h
    refine ⟨fun hg => absurd rfl (hg add), fun _ _ a ha => ?_, fun _ => ⟨hlo, hhi⟩, fun a ha => ?_⟩
    · exact hread a (debug_only hb ha).1 (debug_only hb ha).2
    · obtain ⟨hi, -, -, ho⟩ := not_bufferByte_iff.mp ha
      exact hread a hi ho
  | gens add =>
    obtain ⟨hlo, hhi, hread⟩ := execGens_outputs h
    refine ⟨fun _ hs => absurd rfl (hs add), fun hs => absurd rfl (hs add), fun _ => ⟨hlo, hhi⟩, fun a ha => ?_⟩
    obtain ⟨hi, hk, hv, ho⟩ := not_bufferByte_iff.mp ha
    exact hread a hi ho hk hv
  | rdst =>
    obtain ⟨hlen, hread⟩ := execRdst_outputs h
    refine ⟨fun _ _ => ⟨hlen, fun a ha => ?_⟩, fun _ hr => absurd rfl hr, fun hr => absurd rfl hr, fun a ha => ?_⟩
    · obtain ⟨hi, hk, hv⟩ := out_only hb ha
      exact hread a hi hk hv
    · obtain ⟨hi, hk, hv, -⟩ := not_bufferByte_iff.mp ha
      exact hread a hi hk hv
  | nop | inst | rsd | zero =>
    have hk : OutputsKept s t := exec_outputsKept h nofun nofun nofun
    exact ⟨fun _ _ => ⟨hk.outLen, fun a ha => hk.bytes a (out_only hb ha).1⟩,
      fun _ _ a ha => hk.bytes a (debug_only hb ha).1, fun _ => ⟨hk.dbgCntLo, hk.dbgCntHi⟩,
      fun a ha => hk.bytes a (not_bufferByte_iff.mp ha).1⟩

end Sys2Proof.Machine
end

section
/-! SUPPORT. The register file as the host sees it (10_state.md rules R40 to R51, R60): STATUS, operand registers and bytes,
reads while BUSY is 0, and the reset values. -/

namespace Sys2Proof.Machine

open Host
open Sys2Proof.Config (Build)

/-! ### STATUS -/

theorem getLsbD_statusBit (b : Bool) (n i : Nat) (hn : n < 32) : (statusBit b n).getLsbD i = (b && decide (i = n)) := by
  simp only [statusBit, BitVec.getLsbD_shiftLeft, BitVec.getLsbD_setWidth, BitVec.getLsbD_ofBool]
  by_cases h : i = n
  · subst h
    simp [hn]
  · by_cases hlt : i < n
    · simp [h, hlt]
    · simp [h, show i - n ≠ 0 by omega]

/-- Bit `i` of STATUS, from the one field that reaches it (R43). -/
theorem State.getLsbD_status (s : State) (i : Nat) (hi : i < 32) : s.status.getLsbD i =
    ((s.busy && decide (i = 0)) || (s.win.done && decide (i = 1)) || (s.gen.inst && decide (i = 2))
      || (!decide (i < 4) && s.win.err.code.getLsbD (i - 4)) || (!decide (i < 8) && s.gen.variant.getLsbD (i - 8))) := by
  have h4 : i - 4 < 32 := by omega
  have h8 : i - 8 < 32 := by omega
  simp only [State.status, BitVec.getLsbD_or, getLsbD_statusBit, BitVec.getLsbD_shiftLeft, BitVec.getLsbD_setWidth, hi, h4,
    h8, decide_true, Bool.true_and, Nat.reduceLT]

theorem ErrKind.code_le (e : ErrKind) : e.code.toNat ≤ 6 := by cases e <;> decide

/-- Settles O38: each field of STATUS is its own bits of the register, and the codes are a table. -/
theorem statusFields : Obligations.StatusFields := by
  intro s
  refine ⟨?_, ?_, ?_, ?_, ?_, ?_, ?_, s.win.err.code_le, s.busy_iff, rfl, rfl, rfl, rfl, rfl, rfl, rfl⟩
  · rw [s.getLsbD_status 0 (by decide)]; simp
  · rw [s.getLsbD_status 1 (by decide)]; simp
  · rw [s.getLsbD_status 2 (by decide)]; simp
  · rw [s.getLsbD_status 3 (by decide)]; simp
  all_goals
    apply BitVec.eq_of_getLsbD_eq
    intro j hj
    rw [BitVec.getLsbD_extractLsb', s.getLsbD_status _ (by omega)]
  · simp [hj, show 4 + j < 8 by omega, show 4 + j ≠ 1 by omega, show 4 + j ≠ 2 by omega]
  · simp [hj, show 8 + j ≠ 1 by omega, show 8 + j ≠ 2 by omega, s.win.err.code.getLsbD_of_ge (8 + j - 4) (by omega)]
  · simp [show 10 + j ≠ 1 by omega, show 10 + j ≠ 2 by omega, s.win.err.code.getLsbD_of_ge (10 + j - 4) (by omega),
      s.gen.variant.getLsbD_of_ge (10 + j - 8) (by omega)]

/-! ### Operand registers and bytes -/

/-- Settles O40: a register write changes its own field of the window, and a read gives it back. -/
theorem operandRegistersHoldTheirValue : Obligations.OperandRegistersHoldTheirValue := by
  intro s r x hb hr
  have hwrite : busWrite r.offset .word x s = .next (s.writeReg r x) := by
    obtain ⟨h1, h2, h3, -⟩ := r.access
    have hc : r ≠ .cmd := by rintro rfl; simp at hr
    simp [busWrite, h1, h2, h3, hb, hc]
  refine ⟨s.writeReg r x, hwrite, ?_⟩
  rcases hr with rfl | rfl | rfl | rfl
  all_goals
    refine ⟨busRead_reg _ _ hb, fun r' hr' => ?_, rfl, rfl, rfl, rfl, rfl, rfl, rfl⟩
    cases r' <;> trivial

theorem laneOf_eq_extractLsb' (x : Word) (i : Nat) : laneOf x i = x.extractLsb' (8 * i) 8 := by
  apply BitVec.eq_of_getLsbD_eq
  intro j hj
  simp [laneOf, hj]

/-- A write past the control registers while BUSY is 0 (R84). -/
theorem busWrite_above {s : State} {off : Nat} {size : AccessSize} (x : Word) (hb : s.busy = false) (h1 : 0x28 ≤ off)
    (h2 : off < 0x11000) (ha : off % size.bytes = 0) :
    busWrite off size x s = .next (s.writeLanes off x (List.range size.bytes)) := by
  have hw := (inWindow_iff off).mpr h2
  have had := (admitted_iff off size).mpr ⟨ha, fun h => absurd h1 (by omega)⟩
  simp [busWrite, hw, had, regAt_above h1, hb]

/-- Registers do not depend on the window's bytes. -/
theorem State.readReg_of_mem {s t : State} {m : Memory} (hw : t.win = { s.win with mem := m }) (hg : t.gen = s.gen)
    (hq : t.seq = s.seq) (r : Reg) : t.readReg r = s.readReg r := by
  cases r <;> simp [State.readReg, State.status, State.busy, hw, hg, hq]

/-- Settles O41: the write stores lane by lane, and the read puts the lanes together again. -/
theorem operandBytesHoldTheirLanes : Obligations.OperandBytesHoldTheirLanes := by
  intro s off size x hs hb ha hin
  obtain ⟨h1, h2⟩ : 0x400 ≤ off ∧ off < 0x700 :=
    inputByte_bounds hs.build_wf (by simpa using hin 0 size.bytes_bounds.1)
  obtain ⟨hbuild, hgen, hseq, hhost, htrace, hdraws, m, hwin⟩ := s.writeLanes_frame off x (List.range size.bytes)
  obtain ⟨-, hlane, hother⟩ := s.writeLanes_read off x (List.range size.bytes) hs.mem_wf List.nodup_range
    fun i hi => hin i (List.mem_range.mp hi)
  have hidle : (s.writeLanes off x (List.range size.bytes)).busy = false := by
    rw [State.busy, hseq]
    exact hb
  refine ⟨_, busWrite_above x hb (by omega) (by omega) ha, ?_, fun i hi => ?_, fun a hout => ?_,
    State.readReg_of_mem hwin hgen hseq, by rw [hwin], hgen, hseq, htrace, hbuild, hhost, hdraws⟩
  · rw [busRead_above hidle (by omega) (by omega) ha, ← valueOfLanes_laneOf, accessOffsets, List.map_map]
    congr 3
    refine List.map_congr_left fun i hi => ?_
    have hbuf : bufferByte s.build (off + i) = true := by simp [bufferByte, hin i (List.mem_range.mp hi)]
    simp only [Function.comp, State.byteAt, hbuild, hbuf, if_true, hlane i hi]
  · rw [hlane i (List.mem_range.mpr hi), laneOf_eq_extractLsb']
  · refine hother a fun i hi => ?_
    have := List.mem_range.mp hi
    omega

/-! ### Reads while BUSY is 0 -/

/-- What a read while BUSY is 0 gives does not depend on K, V and CNT (R34). -/
theorem State.peek_of_secrets (s : State) (k v : Bytes) (c : BitVec 64) (off : Nat) (size : AccessSize) :
    State.peek { s with gen := { s.gen with k := k, v := v, cnt := c } } off size = s.peek off size := by
  have hreg (r : Reg) : State.readReg { s with gen := { s.gen with k := k, v := v, cnt := c } } r = s.readReg r := by
    cases r <;> rfl
  unfold State.peek
  simp only [hreg]
  rfl

/-- Settles O46: an idle read is a `peek`, which does not see the secrets. -/
theorem secretsAreNotReadable : Obligations.SecretsAreNotReadable := by
  intro s k v c off size x hb h
  have hb' : State.busy { s with gen := { s.gen with k := k, v := v, cnt := c } } = false := hb
  unfold busRead at h ⊢
  rw [hb] at h
  rw [hb', State.peek_of_secrets]
  split at h
  · cases h
  · next hw =>
    split at h
    · cases h
    · next had =>
      rw [if_neg hw, if_neg had]
      cases h
      rfl

/-- An aligned read of bytes that all hold 0 gives 0. -/
theorem busRead_zero {s : State} {off : Nat} {size : AccessSize} (hb : s.busy = false) (h1 : 0x28 ≤ off)
    (h2 : off < 0x11000) (ha : off % size.bytes = 0) (hz : ∀ i, i < size.bytes → s.byteAt (off + i) = 0) :
    busRead off size s = .next (0, s) := by
  have hlanes : (accessOffsets off size).map s.byteAt = List.replicate size.bytes 0 := by
    rw [accessOffsets, List.map_map]
    exact List.eq_replicate_iff.mpr ⟨by simp, by simpa using hz⟩
  rw [busRead_above hb h1 h2 ha, hlanes, valueOfLanes_zeros]

/-- Settles O47: `decode_debug` for the words, and the invariant for the registers and buffers. -/
theorem debugRegistersReadZeroWithoutAccess : Obligations.DebugRegistersReadZeroWithoutAccess := by
  refine ⟨fun w add => ⟨fun h => ?_, fun h => ?_⟩, fun s hs hd hb => ?_⟩
  · exact absurd (decode_debug h) (by simp [Instr.wellFormed])
  · exact absurd (decode_debug h) (by simp [Instr.wellFormed])
  · obtain ⟨hlo, hhi, hbytes⟩ := hs.debug_hidden hd
    refine ⟨?_, ?_, fun off size h1 h2 ha => busRead_zero hb (by omega) (by omega) ha fun i hi => ?_⟩
    · rw [busRead_reg s .dbgCntLo hb, State.readReg, hlo]
    · rw [busRead_reg s .dbgCntHi hb, State.readReg, hhi]
    · have hheld : Buf.dbgK.holds s.build (off + i) = true ∨ Buf.dbgV.holds s.build (off + i) = true := by
        simp only [Buf.holds_iff, Buf.offset, Buf.size, Config.dlMax]
        omega
      rw [State.byteAt, hbytes _ hheld, ite_self]

/-- Settles O52: a register read is `readReg`, and a buffer read is made of the bytes' lanes. -/
theorem idleReadsGiveTheContents : Obligations.IdleReadsGiveTheContents := by
  refine ⟨fun s r hb => ?_, fun s off size hwf hb ha hbuf => ?_⟩
  · rw [busRead_reg s r hb]
    cases r <;> rfl
  · obtain ⟨h1, h2⟩ := bufferByte_bounds hwf (by simpa using hbuf 0 size.bytes_bounds.1)
    have hlen : ((accessOffsets off size).map s.byteAt).length = size.bytes := by simp [accessOffsets]
    refine ⟨_, busRead_above hb (by omega) (by omega) ha, fun i hi => ?_, ?_⟩
    · rw [extractLsb'_valueOfLanes _ i (by omega) (hlen ▸ size.bytes_bounds.2)]
      simp [accessOffsets, State.byteAt, hbuf i hi]
    · have hlt := valueOfLanes_lt ((accessOffsets off size).map s.byteAt) (hlen ▸ size.bytes_bounds.2)
      rwa [hlen] at hlt

/-! ### The output of a GEN -/

theorem State.preUpdate_pure (s : State) (a : Opt) :
    ((s.preUpdate a).gen.k, (s.preUpdate a).gen.v) =
      Drbg.preUpdate (providerOf s.build s.gen.variant) s.gen.k s.gen.v a := by
  cases a <;> rfl

/-- What a generate stores in OUT is the output of the pure function (R214). -/
theorem State.generated_eq_output {s : State} (h : Sound s) (add : Bool) :
    s.generated add = Drbg.output (providerOf s.build s.gen.variant) (s.build.digestLen s.gen.variant) s.gen.k s.gen.v
      (if add then some s.operand0 else none) s.win.arg.toNat := by
  show s.generated add = Drbg.output _ _ _ _ (s.additionalInput add) _
  obtain ⟨hb, -, -, -, -, hv, -, -, -, ht, hn⟩ :=
    (s.startGen (s.additionalInput add)).preUpdate_frame (s.additionalInput add)
  have hp := (s.startGen (s.additionalInput add)).preUpdate_pure (s.additionalInput add)
  simp only [State.startGen_build, State.startGen_gen, State.startGen_seq_tbuf, State.startGen_seq_nreq] at hb hv ht hn hp
  have hd := (digestLen_bounds h.build_wf h.attached).1
  rw [← hb, ← hv] at hd
  unfold State.generated
  dsimp only
  rw [genLoop_eq_iterate _ ht hd]
  obtain ⟨-, -, -, -, -, htbuf, -⟩ := genBlock_iterate _ ht (ceilDiv s.win.arg.toNat (s.build.digestLen s.gen.variant))
  rw [hn, hb, hv, htbuf, hb, hv]
  simp only [Drbg.output, ← hp]

/-- A byte read past the control registers while BUSY is 0. -/
theorem busRead_byte {s : State} {off : Nat} (hb : s.busy = false) (h1 : 0x28 ≤ off) (h2 : off < 0x11000) :
    busRead off .byte s = .next ((s.byteAt off).setWidth 32, s) := by
  rw [busRead_above (size := .byte) hb h1 h2 (Nat.mod_one off)]
  simp [accessOffsets, AccessSize.bytes, valueOfLanes]

/-- Settles O53: OUT holds what the generate stored and reads 0x00 past it. -/
theorem hostReadsTheOutput : Obligations.HostReadsTheOutput := by
  intro s add hs ho hr
  have hexec : exec (.gen add) s = .next ((s.generate add).complete .ok) := by
    rcases execGen_cases s add with ⟨-, he⟩ | ⟨hn, -⟩
    · exact he
    · exact absurd hr hn
  refine ⟨_, hexec, fun j hj => ?_⟩
  have hbuild := s.generate_build add
  have hmax := Build.wf_maxOutLen hs.build_wf
  have hheld : Buf.out.holds s.build (Buf.out.offset + j) = true := by
    simp only [Buf.holds_iff, Buf.size]
    omega
  have hout : ((s.generate add).complete .ok).byteAt (Buf.out.offset + j) = (s.generated add)[j]?.getD 0 := by
    rw [State.byteAt, State.complete_build, hbuild, bufferByte_of_holds hheld, if_pos rfl,
      State.complete_read_kept hbuild _ (out_only hs.build_wf hheld).1, State.generate_win]
    dsimp only
    by_cases hin : j < (s.generated add).length
    · rw [s.storeBuf_read_inside .out _ hs.mem_wf hin hj]
      simp [hin]
    · rw [s.storeBuf_read_other .out _ (by omega), hs.out_tail j (by simp [ho])]
      simp [hin]
  rw [busRead_byte rfl (by simp only [Buf.offset]; omega) (by simp only [Buf.offset]; omega), hout,
    State.generated_eq_output hs.sound]

/-! ### Reset -/

/-- Settles O48: the reset state is written out, and its window holds no byte. -/
theorem resetValues : Obligations.ResetValues := by
  intro b
  refine ⟨rfl, rfl, rfl, rfl, rfl, rfl, rfl, rfl, fun r => ?_, fun a => ?_, rfl, rfl, rfl, rfl, rfl, rfl, rfl, rfl, rfl,
    rfl⟩
  · cases r
    case status =>
      apply BitVec.eq_of_getLsbD_eq
      intro i hi
      rw [State.readReg, State.getLsbD_status _ i hi]
      simp [State.resetOf, State.busy, Sequencer.reset, Window.reset, Gen.reset, ErrKind.code]
    all_goals rfl
  · exact ite_self 0

end Sys2Proof.Machine
end

section
/-! SUPPORT. The host's accesses to the register window, each answer said once (20_memory.md rules R80 to R89,
70_reset_and_hazards.md rules R360, R361). -/

namespace Sys2Proof.Machine

/-! ### Refused accesses -/

/-- An access past the window faults, whichever way it goes. -/
theorem access_outside {off : Nat} (h : 0x11000 ≤ off) (size : AccessSize) (x : Word) (s : State) :
    busRead off size s = .fault .outsideWindow ∧ busWrite off size x s = .fault .outsideWindow := by
  have hw : inWindow off = false := Bool.eq_false_iff.mpr fun hi => by rw [inWindow_iff] at hi; omega
  simp [busRead, busWrite, hw]

/-- An access in the window that R86 does not admit is refused, whichever way it goes. -/
theorem access_not_admitted {off : Nat} {size : AccessSize} (h : off < 0x11000) (ha : admitted off size = false)
    (x : Word) (s : State) :
    busRead off size s = .refused .badAccess ∧ busWrite off size x s = .refused .badAccess := by
  simp [busRead, busWrite, (inWindow_iff off).mpr h, ha]

/-- Settles O39: past the window the first check of an access answers, and in it the second. -/
theorem badAccessesAreRefused : Obligations.BadAccessesAreRefused := by
  intro s off size x
  refine ⟨fun h => access_outside h size x s, fun h hbad => access_not_admitted h ?_ x s⟩
  refine Bool.eq_false_iff.mpr fun ha => ?_
  obtain ⟨halign, hword⟩ := (admitted_iff off size).mp ha
  rcases hbad with hmis | ⟨hlow, hsize⟩
  · exact hmis halign
  · exact hsize (hword hlow)

/-! ### Writes -/

/-- A word write at a register's offset (R41, R42, R45, R87). -/
theorem busWrite_reg (r : Reg) (x : Word) (s : State) : busWrite r.offset .word x s =
    if r.isOperand && s.busy then .refused .writeWhileBusy
    else if r = .cmd then startCommand x s else .next (s.writeReg r x) := by
  obtain ⟨hin, hadm, hreg, -⟩ := r.access
  simp [busWrite, hin, hadm, hreg]

/-- An admitted write past the control registers, BUSY or not (R84, R87). -/
theorem busWrite_past_registers {off : Nat} {size : AccessSize} (x : Word) (s : State) (h1 : 0x28 ≤ off)
    (h2 : off < 0x11000) (ha : off % size.bytes = 0) : busWrite off size x s =
    if s.busy && (accessOffsets off size).any (inputByte s.build) then .refused .writeWhileBusy
    else .next (s.writeLanes off x (List.range size.bytes)) := by
  have hadm := (admitted_iff off size).mpr ⟨ha, fun h => absurd h1 (by omega)⟩
  simp [busWrite, (inWindow_iff off).mpr h2, hadm, regAt_above h1]

/-- Settles O42: such a register holds nothing of its own to write, and lanes over no operand byte are dropped. -/
theorem readOnlyAndReservedIgnoreWrites : Obligations.ReadOnlyAndReservedIgnoreWrites := by
  refine ⟨fun s r x hr => ?_, fun s off size x h1 h2 ha => ⟨fun hin => ?_, fun hb hres => ?_⟩⟩
  · rw [busWrite_reg]
    rcases hr with rfl | rfl | rfl | rfl | rfl <;> rfl
  · rw [busWrite_past_registers x s h1 h2 ha, (accessOffsets_none_iff off size _).mpr hin, Bool.and_false,
      if_neg Bool.false_ne_true, s.writeLanes_ignored off x _ fun i hi => hin i (List.mem_range.mp hi)]
  · refine busRead_zero hb h1 h2 ha fun i hi => ?_
    rw [State.byteAt, hres i hi]
    rfl

/-- Settles O43: both kinds of write ask for BUSY before they write. -/
theorem writesWhileBusyAreRefused : Obligations.WritesWhileBusyAreRefused := by
  intro s x hb
  refine ⟨fun r hr => ?_, fun off size hwf ha hin => ?_⟩
  · rw [busWrite_reg, hb]
    rcases hr with rfl | rfl | rfl | rfl | rfl <;> rfl
  · obtain ⟨i, hi, hbyte⟩ := hin
    have hbounds := inputByte_bounds hwf hbyte
    have hsize := size.bytes_bounds
    rw [busWrite_past_registers x s (by omega) (by omega) ha, hb,
      (accessOffsets_any_iff off size _).mpr ⟨i, hi, hbyte⟩]
    rfl

/-! ### Reads -/

/-- An admitted read while BUSY is 1 (R89). -/
theorem busRead_busy {s : State} {off : Nat} {size : AccessSize} (hb : s.busy = true) (h : off < 0x11000)
    (ha : off % size.bytes = 0) (hword : off < 0x28 → size = .word) :
    busRead off size s = .next (s.peekWhileBusy off size, { s with draws := s.draws + 1 }) := by
  simp [busRead, (inWindow_iff off).mpr h, (admitted_iff off size).mpr ⟨ha, hword⟩, hb]

/-- A bit of STATUS that R89 lists reads as it is while BUSY is 1. -/
theorem State.getLsbD_statusWhileBusy (s : State) (free : Word) {i : Nat} (hi : statusExactMask.getLsbD i = true) :
    (s.statusWhileBusy free).getLsbD i = s.status.getLsbD i := by
  simp [State.statusWhileBusy, hi]

/-- ERR is among the bits that R89 lists. -/
theorem State.err_statusWhileBusy (s : State) (free : Word) :
    (s.statusWhileBusy free).extractLsb' 4 4 = s.status.extractLsb' 4 4 := by
  apply BitVec.eq_of_getLsbD_eq
  intro j hj
  have hmask : ∀ j < 4, statusExactMask.getLsbD (4 + j) = true := by decide
  rw [BitVec.getLsbD_extractLsb', BitVec.getLsbD_extractLsb', s.getLsbD_statusWhileBusy free (hmask j hj)]

/-- Settles O44: the invariant says what DONE and ERR are while BUSY is 1. -/
theorem readsWhileBusy : Obligations.ReadsWhileBusy := by
  intro s hs hb
  obtain ⟨hbusy, hdone, -, -, herr, -⟩ := statusFields s
  refine ⟨⟨s.statusWhileBusy (Config.freeWord s.draws), busRead_busy hb (by decide) rfl fun _ => rfl, ?_, ?_, ?_⟩,
    fun off size h ha hword => ⟨_, busRead_busy hb h ha hword⟩⟩
  · rw [State.getLsbD_statusWhileBusy _ _ (by decide), hbusy, hb]
  · rw [State.getLsbD_statusWhileBusy _ _ (by decide), hdone]
    exact Bool.eq_false_iff.mpr fun hd => by simp [hs.done_idle hd] at hb
  · rw [State.err_statusWhileBusy, herr, hs.err_idle hb]
    rfl

/-- A read leaves all but the count of draws as it was (R88, R89). -/
theorem busRead_state {off : Nat} {size : AccessSize} {s t : State} {x : Word}
    (h : busRead off size s = .next (x, t)) : t = { s with draws := t.draws } := by
  rcases busRead_next h with ⟨-, -, rfl⟩ | ⟨-, -, rfl⟩ <;> rfl

/-- Settles O45: `busRead_state`, and an idle read draws nothing. -/
theorem readsHaveNoSideEffect : Obligations.ReadsHaveNoSideEffect := by
  refine fun s t off size x h => ⟨busRead_state h, fun hidle => ?_⟩
  rcases busRead_next h with ⟨-, -, rfl⟩ | ⟨hb, -, -⟩
  · exact ⟨rfl, h⟩
  · exact absurd hb (Bool.eq_false_iff.mp hidle)

end Sys2Proof.Machine
end

section
/-! SUPPORT. What a host statement other than a command leaves alone (20_memory.md rules R87, R88, 30_encoding.md
rule R126). -/

namespace Sys2Proof.Machine

/-- All of the block and the record of calls is the same in two states, but for the operand registers and bytes. -/
structure OperandsOnly (s t : State) : Prop where
  build : t.build = s.build
  gen : t.gen = s.gen
  seq : t.seq = s.seq
  trace : t.trace = s.trace
  win : OperandWrite s.build s.win t.win

/-- STATUS mirrors the generator state, the phase, DONE and ERR, and no operand (R43). -/
theorem OperandsOnly.status {s t : State} (h : OperandsOnly s t) : t.status = s.status := by
  simp only [State.status, State.busy, h.seq, h.gen, h.win.done, h.win.err]

/-- A write that is no word write to CMD writes operands at most (R87). -/
theorem busWrite_operandsOnly {off : Nat} {size : AccessSize} {x : Word} {s t : State}
    (h : busWrite off size x s = .next t) (hcmd : ¬(off = Reg.cmd.offset ∧ size = .word)) : OperandsOnly s t := by
  rcases busWrite_next h with ⟨hoff, -, -⟩ | ⟨r, -, -, -, rfl⟩ | ⟨-, -, rfl⟩
  · subst hoff
    have hadm : admitted Reg.cmd.offset size = false :=
      Bool.eq_false_iff.mpr fun ha => hcmd ⟨rfl, ((admitted_iff _ size).mp ha).2 (by decide)⟩
    rw [(access_not_admitted (by decide) hadm x s).2] at h
    cases h
  · obtain ⟨hb, hg, hq⟩ := s.writeReg_frame r x
    exact ⟨hb, hg, hq, by cases r <;> rfl, s.writeReg_operandWrite r x⟩
  · obtain ⟨hb, hg, hq, -, ht, -⟩ := s.writeLanes_frame off x (List.range size.bytes)
    exact ⟨hb, hg, hq, ht, s.writeLanes_operandWrite off x _⟩

/-- What a statement does with the value it has read is the host's own (R88). -/
theorem withRead_operandsOnly {off : Nat} {size : AccessSize} {f : Word → State → State} {s t : State}
    (h : withRead (busRead off size s) f = .next t) (hf : ∀ x u, ∃ a, f x u = { u with host := a }) :
    OperandsOnly s t := by
  obtain ⟨x, u, hr, rfl⟩ := withRead_next h
  obtain ⟨a, ha⟩ := hf x u
  rw [ha, busRead_state hr]
  exact ⟨rfl, rfl, rfl, rfl, .refl _ _⟩

/-- The host's own place in its program is none of the block. -/
theorem OperandsOnly.of_hostAdvance {s t : State} (h : OperandsOnly s.hostAdvance t) : OperandsOnly s t :=
  ⟨h.build, h.gen, h.seq, h.trace, h.win⟩

/-- A host statement that is no command writes operands at most (R87, R88, R126). -/
theorem hostExec_operandsOnly {st : HostStmt} {s t : State} (h : hostExec st s = .next t)
    (hst : ∀ w, st ≠ .write Reg.cmd.offset .word w) : OperandsOnly s t := by
  cases st with
  | write off size x =>
    exact (busWrite_operandsOnly h fun ⟨hoff, hsize⟩ => hst x (by rw [hoff, hsize])).of_hostAdvance
  | read off size =>
    exact (withRead_operandsOnly h fun _ _ => ⟨_, rfl⟩).of_hostAdvance
  | wait =>
    refine withRead_operandsOnly h fun x u => ?_
    split
    · exact ⟨_, rfl⟩
    · exact ⟨u.host, rfl⟩
  | jeq off hi lo value target =>
    refine withRead_operandsOnly h fun x u => ?_
    split <;> exact ⟨_, rfl⟩
  | jmp target =>
    cases h
    exact ⟨rfl, rfl, rfl, rfl, .refl _ _⟩

/-- Settles O33: the operands are none of what the statement names. -/
theorem onlyCommandsTouchTheGenerator : Obligations.OnlyCommandsTouchTheGenerator := by
  intro s t st hr hst hstep
  have h := hostExec_operandsOnly (hr.step_eq.symm.trans hstep) hst
  exact ⟨h.gen, h.trace, h.seq, h.build, h.status, h.win.outLen, h.win.dbgCntLo, h.win.dbgCntHi, h.win.read⟩

end Sys2Proof.Machine
end

section
/-! SUPPORT. What each phase of the sequencer writes, calls and enters (40_update_engine.md rules R150, R153). -/

namespace Sys2Proof.Machine

/-! ### CHECK and CNT_OP -/

/-- CHECK makes no call and keeps the command word (R153). -/
theorem CheckExit.frame {s t : State} (h : CheckExit s t) : t.build = s.build ∧ t.host = s.host ∧
    t.draws = s.draws ∧ t.trace = s.trace ∧ t.seq.lcmd = s.seq.lcmd := by
  cases h with
  | rdst => simp
  | finish | inst | gen | genAdd | rsd | zero => exact ⟨rfl, rfl, rfl, rfl, rfl⟩

/-- Where CHECK goes on (R153). -/
theorem CheckExit.phase {s t : State} (h : CheckExit s t) :
    t.seq.phase = .complete ∨ t.seq.phase = .updK0 ∨ t.seq.phase = .genBlock := by
  cases h with
  | finish | rdst | zero => exact .inl rfl
  | inst | genAdd | rsd => exact .inr (.inl rfl)
  | gen => exact .inr (.inr rfl)

/-- CNT_OP changes nothing but CNT. -/
theorem State.seqCount_frame (s : State) : s.seqCount = { s with gen.cnt := s.seqCount.gen.cnt } := by
  rcases s.seqCount_cases with ⟨-, he⟩ | he | he <;> rw [he] <;> rfl

theorem State.seqCount_genPost {s : State} (h : s.seq.uret = .genPost) : s.seqCount = s.decrementCnt := by
  simp only [State.seqCount, h]

theorem State.seqCount_rsdSeed {s : State} (h : s.seq.uret = .rsdSeed) : s.seqCount = s.reloadCnt := by
  simp only [State.seqCount, h]

/-! ### COMPLETE -/

theorem State.seqComplete_gens {s : State} {add : Bool}
    (hd : decode s.build.debugAccess s.seq.lcmd = .ok (.gens add)) (ho : s.seq.outcome = .ok) :
    s.seqComplete = s.showKV.complete .ok := by
  simp only [State.seqComplete, hd, ho]

theorem State.seqComplete_other {s : State}
    (h : ∀ add, decode s.build.debugAccess s.seq.lcmd = .ok (.gens add) → s.seq.outcome ≠ .ok) :
    s.seqComplete = s.complete s.seq.outcome := by
  unfold State.seqComplete
  split
  · next add hd ho => exact absurd ho (h add hd)
  · rfl

/-- What COMPLETE does, GENS or not (R262). -/
theorem State.seqComplete_frame (s : State) : s.seqComplete.trace = s.trace ∧ s.seqComplete.gen = s.gen ∧
    Completed s s.seqComplete s.seq.outcome ∧ s.seqComplete.seq.uret = s.seq.uret ∧
    s.seqComplete.win.outLen = s.win.outLen ∧ s.seqComplete.win.dbgCntLo = s.win.dbgCntLo ∧
    s.seqComplete.win.dbgCntHi = s.win.dbgCntHi := by
  rcases s.seqComplete_cases with he | ⟨-, he⟩ <;> rw [he]
  · exact ⟨rfl, rfl, State.completed_complete rfl rfl rfl rfl _, rfl, rfl, rfl, rfl⟩
  · have hdone : Completed s (s.showKV.complete s.seq.outcome) s.seq.outcome :=
      State.completed_complete s.showKV_build s.showKV_host s.showKV_draws (by simp) _
    exact ⟨by simp, by simp, hdone, by simp, by simp, by simp, by simp⟩

/-- `showKV` puts K and V in the debug buffers (R225, R268). -/
theorem State.showKV_shows {s : State} (h : Sound s) :
    ShowsKV s.showKV s.gen (s.build.digestLen s.gen.variant) := by
  have hdl := (digestLen_bounds h.build_wf h.attached).2
  have hk := h.k_length
  have hv := h.v_length
  constructor
  · intro j hj
    rw [State.showKV_win_mem, State.storeBuf_read_other _ .dbgV _ (by simp only [Buf.offset]; omega),
      State.storeBuf_read_inside .dbgK _ h.mem_wf (by rw [List.length_take]; omega)
        (by simp only [Buf.size, Config.dlMax]; omega), List.getElem_take]
    exact List.getElem?_eq_getElem _
  · intro j hj
    rw [State.showKV_win_mem, State.storeBuf_read_inside .dbgV _ (State.wf_storeBuf _ _ h.mem_wf)
        (by rw [List.length_take]; omega) (by simp only [Buf.size, Config.dlMax]; omega), List.getElem_take]
    exact List.getElem?_eq_getElem _

/-- `showKV` writes no byte but the first DL(VARIANT) of each debug buffer (R225, R268). -/
theorem State.showKV_read_outside (s : State) {a : Nat}
    (hK : Buf.dbgK.firstBytes (s.build.digestLen s.gen.variant) a = false)
    (hV : Buf.dbgV.firstBytes (s.build.digestLen s.gen.variant) a = false) :
    s.showKV.win.mem.read a = s.win.mem.read a := by
  rw [Buf.not_firstBytes_iff] at hK hV
  rw [State.showKV_win_mem, State.storeBuf_read_other _ .dbgV _ (by rw [List.length_take]; omega),
    State.storeBuf_read_other _ .dbgK _ (by rw [List.length_take]; omega)]

theorem ShowsKV.complete {t : State} {g : Gen} {dl : Nat} (h : ShowsKV t g dl) (hb : t.build.wf = true)
    (c : ErrKind) : ShowsKV (t.complete c) g dl where
  dbgK j hj := by
    rw [State.complete_read_kept rfl c (not_inputByte hb (by simp only [Buf.offset]; omega))]
    exact h.dbgK j hj
  dbgV j hj := by
    rw [State.complete_read_kept rfl c (not_inputByte hb (by simp only [Buf.offset]; omega))]
    exact h.dbgV j hj

/-! ### The update engine and the generate loop -/

theorem URet.phase_eq (r : URet) : r.phase = updateReturn r := by cases r <;> rfl

theorem State.rekey_keyPhase (s : State) (m : Bytes) (p : Phase) : KeyPhase s ((s.rekey m).goto p) m p :=
  ⟨rfl, rfl, rfl, rfl⟩

theorem State.chain_valuePhase (s : State) (p : Phase) : ValuePhase s (s.chain.goto p) p :=
  ⟨rfl, rfl, rfl, rfl⟩

theorem State.wantsBlock_iff (s : State) : s.wantsBlock = true ↔ s.seq.tbuf.length < s.seq.nreq.toNat :=
  decide_eq_true_iff

/-- GEN_TRUNC stores the first NREQ bytes of TBUF, as far as there are so many (R210, R214). -/
theorem State.genTrunc_read {s : State} (hm : s.win.mem.wf = true) (hn : s.seq.nreq.toNat ≤ s.build.maxOutLen)
    {j : Nat} {b : Byte} (hj : j < s.seq.nreq.toNat) (hb : s.seq.tbuf[j]? = some b) :
    s.genTrunc.win.mem.read (Buf.out.offset + j) = b := by
  obtain ⟨hlt, hget⟩ := List.getElem?_eq_some_iff.mp hb
  rw [State.genTrunc_win_mem, State.storeBuf_read_inside .out _ hm (by rw [List.length_take]; omega)
    (by simp only [Buf.size]; omega), List.getElem_take, hget]

theorem State.genTrunc_read_outside (s : State) {a : Nat} (h : Buf.out.firstBytes s.seq.nreq.toNat a = false) :
    s.genTrunc.win.mem.read a = s.win.mem.read a := by
  rw [Buf.not_firstBytes_iff] at h
  rw [State.genTrunc_win_mem, State.storeBuf_read_other _ .out _ (by rw [List.length_take]; omega)]

/-! ### A step while a command runs -/

/-- No phase changes the build, the host or the count of draws. -/
theorem seqStep_frame (s : State) :
    (seqStep s).build = s.build ∧ (seqStep s).host = s.host ∧ (seqStep s).draws = s.draws := by
  unfold seqStep
  cases s.seq.phase
  case check =>
    obtain ⟨hb, hh, hd, -⟩ := s.seqCheck_exit.frame
    exact ⟨hb, hh, hd⟩
  case cntOp =>
    dsimp only
    rw [s.seqCount_frame]
    exact ⟨rfl, rfl, rfl⟩
  case complete => rcases s.seqComplete_cases with he | ⟨-, he⟩ <;> simp [he]
  case idle | updK0 | updV0 | updK1 | updV1 | genBlock | genTrunc => exact ⟨rfl, rfl, rfl⟩

/-- A pass of GEN_BLOCK: one call on V, its digest added to TBUF, and on while TBUF is too short (R153, R214). -/
theorem State.genBlock_called (s : State) :
    Called s (s.genBlock.goto (if s.genBlock.wantsBlock then .genBlock else .genTrunc)) s.gen.v
    { s.gen with v := providerOf s.build s.gen.variant s.gen.k s.gen.v }
    { s.seq with
      tbuf := s.seq.tbuf ++ s.genBlock.gen.v
      phase := if (s.seq.tbuf ++ s.genBlock.gen.v).length < s.seq.nreq.toNat then .genBlock else .genTrunc } where
  trace := rfl
  gen := rfl
  seq := by simp only [State.wantsBlock_iff]; rfl
  win := rfl

/-- Settles O37: the lemma of its own phase says what the sequencer did. -/
theorem oneProviderCallAPhase : Obligations.OneProviderCallAPhase := by
  intro s hs ht hb
  obtain ⟨hbuild, hhost, hdraws⟩ := seqStep_frame s
  refine ⟨seqStep s, step_busy ht hb, hbuild, hhost, hdraws, ?_⟩
  unfold seqStep
  cases hp : s.seq.phase <;> dsimp only
  case idle => exact s.busy_iff.mp hb hp
  case check =>
    obtain ⟨-, -, -, htrace, hlcmd⟩ := s.seqCheck_exit.frame
    exact ⟨htrace, hlcmd, s.seqCheck_exit.phase⟩
  case updK0 => exact s.rekey_keyPhase _ _
  case updV0 =>
    simp only [Option.isNone_iff_eq_none, URet.phase_eq]
    exact s.chain_valuePhase _
  case updK1 =>
    intro d hd
    rw [State.updK1, hd]
    exact s.rekey_keyPhase _ _
  case updV1 =>
    rw [URet.phase_eq]
    exact s.chain_valuePhase _
  case genBlock => exact s.genBlock_called
  case genTrunc =>
    obtain ⟨-, hn⟩ := hs.request (by simp [State.beforeOutput, hp])
    exact ⟨rfl, rfl, rfl, rfl, fun j b => State.genTrunc_read hs.mem_wf hn, fun a => s.genTrunc_read_outside⟩
  case cntOp =>
    refine ⟨?_, ?_, ?_, fun hu => ?_, fun hu => ?_⟩
    · rw [s.seqCount_frame]; rfl
    · rw [s.seqCount_frame]; rfl
    · rw [s.seqCount_frame]; rfl
    · rw [State.seqCount_genPost hu]; rfl
    · rw [State.seqCount_rsdSeed hu]; rfl
  case complete =>
    obtain ⟨htrace, hgen, hdone, huret, hlen, hlo, hhi⟩ := s.seqComplete_frame
    refine ⟨htrace, hgen, hdone, huret, hlen, hlo, hhi, fun h => ?_, fun add hd ho => ?_⟩
    · rw [State.seqComplete_other h]
      exact State.outputsKept_complete rfl rfl _
    · rw [State.seqComplete_gens hd ho]
      refine ⟨(State.showKV_shows hs.sound).complete hs.build_wf _, fun a hi hK hV => ?_⟩
      rw [State.complete_read_kept s.showKV_build _ hi, s.showKV_read_outside hK hV]

end Sys2Proof.Machine
end

section
/-! SUPPORT. Encoding and decoding of command words in terms of the fields of R110, and the rows of R116
(30_encoding.md rules R110 to R125). -/

namespace Sys2Proof

/-! ### The fields of a command's word -/

/-- RES, VAR, O, P and OPC of a word (R110). -/
def wordFields (w : Word) : BitVec 24 × BitVec 2 × Bool × Bool × BitVec 4 :=
  (fieldRes w, fieldVar w, fieldO w, fieldP w, fieldOpc w)

/-- The fields of a command's word: its opcode, its operands, and 0 in every field its row does not use (R115, R116). -/
def Instr.fields : Instr → BitVec 24 × BitVec 2 × Bool × Bool × BitVec 4
  | .nop => (0, 0, false, false, 0)
  | .inst pers override var => (0, var, override, pers, 1)
  | .gen add => (0, 0, false, add, 2)
  | .rsd => (0, 0, false, false, 3)
  | .gens add => (0, 0, false, add, 4)
  | .rdst => (0, 0, false, false, 5)
  | .zero => (0, 0, false, false, 6)

theorem wordFields_eq_iff {w : Word} {res : BitVec 24} {var : BitVec 2} {o p : Bool} {opc : BitVec 4} :
    wordFields w = (res, var, o, p, opc) ↔
      fieldRes w = res ∧ fieldVar w = var ∧ fieldO w = o ∧ fieldP w = p ∧ fieldOpc w = opc := by
  simp [wordFields]

/-- No bit of a word lies outside its fields. -/
theorem wordFields_injective : Function.Injective wordFields := by
  intro w w' h
  obtain ⟨hres, hvar, ho, hp, hopc⟩ := wordFields_eq_iff.mp h
  exact word_ext_fields hres hvar ho hp hopc

theorem wordFields_encode (i : Instr) : wordFields (encode i) = i.fields := by
  cases i with
  | nop | rsd | rdst | zero => rfl
  | inst pers override var => decide +revert
  | gen add | gens add => decide +revert

theorem encode_eq_iff {i : Instr} {w : Word} : encode i = w ↔ wordFields w = i.fields := by
  rw [← wordFields_encode, eq_comm, wordFields_injective.eq_iff]

/-! ### Decoding -/

theorem decode_encode {debug : Bool} {i : Instr} (h : i.wellFormed debug = true) : decode debug (encode i) = .ok i := by
  cases i with
  | nop | rsd | zero => rfl
  | inst pers override var => decide +revert
  | gen add => decide +revert
  | gens add | rdst => obtain rfl : debug = true := h; decide +revert

theorem fields_of_decodePlain {w : Word} {i j : Instr} {opc : BitVec 4} (hres : fieldRes w = 0)
    (hopc : fieldOpc w = opc) (hi : i.fields = (0, 0, false, false, opc)) (h : decodePlain w i = .ok j) :
    wordFields w = j.fields := by
  obtain ⟨⟨hp, ho, hvar⟩, rfl⟩ := decodePlain_ok_iff.mp h
  rw [hi, wordFields_eq_iff]
  exact ⟨hres, hvar, ho, hp, hopc⟩

theorem fields_of_decodeWithP {w : Word} {i : Bool → Instr} {j : Instr} {opc : BitVec 4} (hres : fieldRes w = 0)
    (hopc : fieldOpc w = opc) (hi : ∀ p, (i p).fields = (0, 0, false, p, opc)) (h : decodeWithP w i = .ok j) :
    wordFields w = j.fields := by
  obtain ⟨⟨ho, hvar⟩, rfl⟩ := decodeWithP_ok_iff.mp h
  rw [hi, wordFields_eq_iff]
  exact ⟨hres, hvar, ho, rfl, hopc⟩

/-- A word that decodes has the fields of its command: every arm of `decode` has read all five. -/
theorem wordFields_of_decode {debug : Bool} {w : Word} {i : Instr} (h : decode debug w = .ok i) :
    wordFields w = i.fields := by
  unfold decode at h
  split at h
  · cases h
  · next hres =>
    have hres : fieldRes w = 0 := not_not.mp hres
    have opcode (k : BitVec 4) (hk : (fieldOpc w).toNat = k.toNat) : fieldOpc w = k := BitVec.eq_of_toNat_eq hk
    split at h
    · next hk => exact fields_of_decodePlain hres (opcode 0 hk) rfl h
    · next hk => cases h; exact wordFields_eq_iff.mpr ⟨hres, rfl, rfl, rfl, opcode 1 hk⟩
    · next hk => exact fields_of_decodeWithP hres (opcode 2 hk) (fun _ => rfl) h
    · next hk => exact fields_of_decodePlain hres (opcode 3 hk) rfl h
    · next hk => exact fields_of_decodeWithP hres (opcode 4 hk) (fun _ => rfl) (whenDebug_ok_iff.mp h).2
    · next hk => exact fields_of_decodePlain hres (opcode 5 hk) rfl (whenDebug_ok_iff.mp h).2
    · next hk => exact fields_of_decodePlain hres (opcode 6 hk) rfl h
    · cases h

/-- Settles O1: a decoded word has its command's fields, and only the encoding has them. -/
theorem decodeExactlyTheEncodings : Obligations.DecodeExactlyTheEncodings := by
  refine fun debug w i => ⟨fun h => ⟨decode_debug h, encode_eq_iff.mpr (wordFields_of_decode h)⟩, ?_⟩
  rintro ⟨hlegal, rfl⟩
  exact decode_encode hlegal

/-! ### The opcode table -/

theorem Instr.selectsOwnRow (i : Instr) : Laws.SelectsOwnRow.Statement i := by
  cases i with
  | nop => exact Laws.SelectsOwnRow.nop
  | inst pers override var => exact Laws.SelectsOwnRow.inst pers override var
  | gen add => exact Laws.SelectsOwnRow.gen add
  | rsd => exact Laws.SelectsOwnRow.rsd
  | gens add => exact Laws.SelectsOwnRow.gens add
  | rdst => exact Laws.SelectsOwnRow.rdst
  | zero => exact Laws.SelectsOwnRow.zero

/-- Which commands need DEBUG_ACCESS is the table's own column (R121). -/
theorem Instr.wellFormed_iff (i : Instr) (debug : Bool) :
    i.wellFormed debug = true ↔ (i.row.needsDebug = true → debug = true) := by
  cases i <;> simp [Instr.wellFormed, Instr.row]

/-- A row selects a word by its fields. -/
theorem TableRow.selects_iff (r : TableRow) (w : Word) : r.selects w = true ↔
    fieldRes w &&& fieldRes r.mask = fieldRes r.pattern ∧ fieldVar w &&& fieldVar r.mask = fieldVar r.pattern ∧
      (fieldO w && fieldO r.mask) = fieldO r.pattern ∧ (fieldP w && fieldP r.mask) = fieldP r.pattern ∧
      fieldOpc w &&& fieldOpc r.mask = fieldOpc r.pattern := by
  have hand : wordFields (w &&& r.mask) = (fieldRes w &&& fieldRes r.mask, fieldVar w &&& fieldVar r.mask,
      fieldO w && fieldO r.mask, fieldP w && fieldP r.mask, fieldOpc w &&& fieldOpc r.mask) := by
    simp [wordFields, fieldRes, fieldVar, fieldO, fieldP, fieldOpc, BitVec.extractLsb'_and]
  rw [TableRow.selects, beq_iff_eq, ← wordFields_injective.eq_iff, hand]
  simp [wordFields]

/-- An AND with all ones, which a mask holds in RES, VAR and OPC where its row fixes the field (R116), keeps the field. -/
theorem and_full_mask : (∀ res : BitVec 24, res &&& 0xFFFFFF#24 = res) ∧ (∀ var : BitVec 2, var &&& 3#2 = var) ∧
    ∀ opc : BitVec 4, opc &&& 15#4 = opc :=
  ⟨fun _ => BitVec.and_allOnes, fun _ => BitVec.and_allOnes, fun _ => BitVec.and_allOnes⟩

/-- What a row selects is the word of one of its commands: the one with the operands the word has in the fields the mask
leaves free (R116). -/
theorem TableRow.exists_encode {r : TableRow} {w : Word} (hr : r ∈ tableRows) (h : r.selects w = true) :
    ∃ i : Instr, i.row = r ∧ encode i = w := by
  simp only [encode_eq_iff]
  rw [TableRow.selects_iff] at h
  simp only [tableRows, List.mem_cons, List.not_mem_nil, or_false] at hr
  rcases hr with rfl | rfl | rfl | rfl | rfl | rfl | rfl
  on_goal 1 => refine ⟨.nop, rfl, ?_⟩
  on_goal 2 => refine ⟨.inst (fieldP w) (fieldO w) (fieldVar w), rfl, ?_⟩
  on_goal 3 => refine ⟨.gen (fieldP w), rfl, ?_⟩
  on_goal 4 => refine ⟨.rsd, rfl, ?_⟩
  on_goal 5 => refine ⟨.gens (fieldP w), rfl, ?_⟩
  on_goal 6 => refine ⟨.rdst, rfl, ?_⟩
  on_goal 7 => refine ⟨.zero, rfl, ?_⟩
  all_goals
    simpa [Instr.fields, wordFields_eq_iff, fieldRes, fieldVar, fieldO, fieldP, fieldOpc, and_full_mask] using h

/-- Settles O2: a row selects the words of its own commands and no others, so O1 turns legality into a row. -/
theorem legalWordsMatchTheTable : Obligations.LegalWordsMatchTheTable := by
  refine ⟨fun debug w => ?_, fun w r r' hr hr' hw hw' => ?_⟩
  · simp only [decodeExactlyTheEncodings debug w, Instr.wellFormed_iff]
    constructor
    · rintro ⟨i, hlegal, rfl⟩
      obtain ⟨hrow, hselects⟩ := i.selectsOwnRow
      exact ⟨i.row, hrow, (hselects _ hrow).mpr rfl, hlegal⟩
    · rintro ⟨r, hr, hw, hlegal⟩
      obtain ⟨i, rfl, hi⟩ := TableRow.exists_encode hr hw
      exact ⟨i, hlegal, hi⟩
  · obtain ⟨i, rfl, rfl⟩ := TableRow.exists_encode hr hw
    exact ((i.selectsOwnRow.2 r' hr').mp hw').symm

/-! ### Words written out, and assembled ones -/

/-- Settles O3: the thirteen words are evaluated. -/
theorem specWordsDecode : Obligations.SpecWordsDecode :=
  ⟨rfl, rfl, rfl, rfl, rfl, rfl, rfl, rfl, rfl, rfl, rfl, rfl, rfl⟩

theorem Instr.wellFormed_true (i : Instr) : i.wellFormed true = true :=
  (i.wellFormed_iff true).mpr fun _ => rfl

theorem Machine.AsmCmd.encode_instr (c : Machine.AsmCmd) : encode c.instr = c.word := by
  cases c <;> rfl

/-- Settles O4: the assembler builds the encoding, and a debug build decodes every encoding (O1). -/
theorem assembledWordsDecode : Obligations.AssembledWordsDecode := fun c =>
  ⟨c.encode_instr, (decodeExactlyTheEncodings _ _ _).mpr ⟨c.instr.wellFormed_true, c.encode_instr⟩⟩

end Sys2Proof
end

section
/-! SUPPORT. What the host's statements do while the block is idle (30_encoding.md rule R126), the write of a command word
above all (45_control_debug.md rules R260, R263). -/

namespace Sys2Proof.Machine

/-! ### The write of a command word -/

/-- The write of a word to CMD starts that word's command (R263). -/
theorem HostReady.step_startCommand {s : State} {w : Word} (h : HostReady s (.write Reg.cmd.offset .word w)) :
    step s = startCommand w s.hostAdvance := by
  rw [h.step_eq, hostExec, busWrite_reg]
  simp [show s.hostAdvance.busy = false from h.idle]

/-- At command grain the step also runs the command to its completion (R263). -/
theorem HostReady.step_runCommand {s : State} {w : Word} (h : HostReady s (.write Reg.cmd.offset .word w))
    (hg : s.host.grain = .command) : step s = runCommand (s.hostAdvance.issue w) := by
  rw [h.step_startCommand, startCommand, show s.hostAdvance.host.grain = .command from hg]

theorem runCommand_ok {s : State} {i : Instr} (h : decode s.build.debugAccess s.seq.lcmd = .ok i) :
    runCommand s = exec i s := by
  rw [runCommand, h]

theorem runCommand_error {s : State} {e : DecodeError} (h : decode s.build.debugAccess s.seq.lcmd = .error e) :
    runCommand s = .next (s.complete .illegalCommand) := by
  rw [runCommand, h, State.raiseError_eq]

/-- Settles O6: an illegal word's completion raises, and neither it nor the issue writes generator state. -/
theorem illegalWordCompletes : Obligations.IllegalWordCompletes := by
  intro s w e hr hg he
  have hraised := State.raised_complete (s.hostAdvance.issue w) .illegalCommand
  exact ⟨_, (hr.step_runCommand hg).trans (runCommand_error he), hraised, hraised.gen⟩

/-- A placed word is what the host does next. -/
theorem State.withFetchWord_hostReady (s : State) (nbits w : Nat) :
    HostReady (s.withFetchWord nbits w) (.write Reg.cmd.offset .word (BitVec.ofNat 32 (w % 2 ^ nbits))) :=
  ⟨rfl, rfl, rfl⟩

/-- Settles O7: the placed word is the next statement, at command grain. -/
theorem placedWordRunsNext : Obligations.PlacedWordRunsNext := by
  intro s nbits w i hbits hw hi
  have hr := s.withFetchWord_hostReady nbits w
  rw [Nat.mod_eq_of_lt hw] at hr
  exact (hr.step_runCommand rfl).trans (runCommand_ok hi)

/-- GENS where DEBUG_ACCESS is false (R121, R225). -/
theorem execGens_without_debug {s : State} (h : s.build.debugAccess = false) (add : Bool) :
    execGens add s = .next (s.complete .illegalCommand) := by
  simp [execGens, h]

/-- RDST where DEBUG_ACCESS is false (R121, R268). -/
theorem execRdst_without_debug {s : State} (h : s.build.debugAccess = false) :
    execRdst s = .next (s.complete .illegalCommand) := by
  simp [execRdst, h]

/-- Settles O16: a decoded command is legal in its build, and both meanings ask for DEBUG_ACCESS first. -/
theorem debugCommandsNeedDebugAccess : Obligations.DebugCommandsNeedDebugAccess := by
  refine ⟨fun w add => ⟨fun h => ?_, fun h => ?_⟩, fun s add hd => ⟨?_, ?_⟩⟩
  · exact Bool.false_ne_true (decode_debug h)
  · exact Bool.false_ne_true (decode_debug h)
  · exact ⟨_, execGens_without_debug hd add, State.raised_complete _ _⟩
  · exact ⟨_, execRdst_without_debug hd, State.raised_complete _ _⟩

/-! ### The other statements -/

/-- The register reads of an idle block answer `readReg` and change nothing (R88). -/
theorem withRead_reg {s : State} (hb : s.busy = false) (r : Reg) (f : Word → State → State) :
    withRead (busRead r.offset .word s) f = .next (f (s.readReg r) s) := by
  rw [busRead_reg s r hb]
  rfl

/-- A byte of a buffer reads as it is while BUSY is 0 (R84, R88). -/
theorem busRead_buf {s : State} {f : Buf} {i : Nat} (hwf : s.build.wf = true) (hi : i < f.size s.build)
    (hb : s.busy = false) :
    busRead (f.offset + i) .byte s = .next ((s.win.mem.read (f.offset + i)).setWidth 32, s) := by
  have hbuf : bufferByte s.build (f.offset + i) = true :=
    bufferByte_of_holds ((Buf.holds_iff _ f _).mpr ⟨by omega, by omega⟩)
  obtain ⟨hlo, hhi⟩ := bufferByte_bounds hwf hbuf
  rw [busRead_byte hb (by omega) hhi, State.byteAt, if_pos hbuf]

/-- Settles O50: the step is the statement itself, and its read, if any, answers what an idle block holds. -/
theorem hostStatements : Obligations.HostStatements := by
  refine ⟨fun s off size x h => h.step_eq, fun s r h => ?_, fun s f i hwf hi h => ?_, fun s h => ?_,
    fun s r hi lo value target h => ?_, fun s target h => h.step_eq⟩
  · rw [h.step_eq, hostExec, withRead_reg (s := s.hostAdvance) h.idle]
    rfl
  · rw [h.step_eq, hostExec, busRead_buf (s := s.hostAdvance) hwf hi h.idle]
    rfl
  · obtain ⟨-, hdone, -⟩ := statusFields s
    rw [h.step_eq, hostExec, withRead_reg h.idle, State.readReg, hdone]
    rfl
  · rw [h.step_eq, hostExec, withRead_reg h.idle, bitsOf]
    split <;> rfl

end Sys2Proof.Machine
end

section
/-! SUPPORT. The update engine as the machine runs it and as the pure function of R140, and how many provider calls a
command makes (40_update_engine.md rules R140 to R154). -/

namespace Sys2Proof.Machine

open Host

/-! ### The update engine -/

theorem State.update_pure (s : State) (ret : URet) (d : Opt) :
    ((s.update ret d).gen.k, (s.update ret d).gen.v) =
      Drbg.update (providerOf s.build s.gen.variant) s.gen.k s.gen.v d := by
  cases d <;> rfl

/-- UPDATE's provider calls, in order (R146, R151). -/
theorem State.update_trace (s : State) (ret : URet) (d : Opt) : (s.update ret d).trace = s.trace ++
    (Drbg.updateCalls (providerOf s.build s.gen.variant) s.gen.k s.gen.v d).map
      (providerEvent s.build s.gen.variant) := by
  cases d with
  | none =>
    rw [State.update_none]
    simp [State.updK0, State.updV0, State.callEvent_eq, State.hmac_eq, Drbg.updateCalls]
  | some d =>
    rw [State.update_some]
    simp [State.updK0, State.updV0, State.updK1, State.updV1, State.callEvent_eq, State.hmac_eq, Drbg.updateCalls]

/-- Two calls, and two more where the data is present (R154). -/
theorem updateCalls_length (H : Bytes → Bytes → Bytes) (k v : Bytes) (d : Opt) :
    (Drbg.updateCalls H k v d).length = if d.isSome then 4 else 2 := by
  cases d <;> rfl

/-- Settles O11: K, V and the calls are those of the pure function, and the frame is UPDATE's own. -/
theorem updateFollowsThePureFunction : Obligations.UpdateFollowsThePureFunction := by
  intro s ret d
  obtain ⟨hbuild, hwin, hhost, hdraws, hseq, hinst, hvariant, hminEnt, hcnt⟩ := s.update_frame ret d
  exact ⟨s.update_pure ret d, s.update_trace ret d, updateCalls_length _ _ _ d, hinst, hvariant, hminEnt, hcnt, hwin,
    hbuild, hhost, hdraws, hseq⟩

/-- Steps 1 and 2 on the empty string are those on absent data, and steps 4 and 5 follow (R147). -/
theorem update_empty (H : Bytes → Bytes → Bytes) (k v : Bytes) :
    Drbg.update H k v (some []) =
      (H (Drbg.update H k v none).1 ((Drbg.update H k v none).2 ++ [0x01]),
       H (Drbg.update H k v (some [])).1 (Drbg.update H k v none).2) := by
  simp [Drbg.update]

theorem updateCalls_empty (H : Bytes → Bytes → Bytes) (k v : Bytes) :
    Drbg.updateCalls H k v (some []) = Drbg.updateCalls H k v none ++
      [((Drbg.update H k v none).1, (Drbg.update H k v none).2 ++ [0x01]),
       ((Drbg.update H k v (some [])).1, (Drbg.update H k v none).2)] := by
  simp [Drbg.updateCalls, Drbg.update]

/-- Settles O12: the pure function has the property, and the machine's updates follow it. -/
theorem updateOfEmptyExtendsAbsent : Obligations.UpdateOfEmptyExtendsAbsent := by
  intro s ret
  have hkv := update_empty (providerOf s.build s.gen.variant) s.gen.k s.gen.v
  have hcalls := updateCalls_empty (providerOf s.build s.gen.variant) s.gen.k s.gen.v
  rw [← s.update_pure ret none, ← s.update_pure ret (some [])] at hkv hcalls
  obtain ⟨hk, hv⟩ := Prod.ext_iff.mp hkv
  refine ⟨hk, hv, ?_⟩
  rw [s.update_trace ret none, s.update_trace ret (some []), hcalls, List.map_append, List.append_assoc]
  rfl

/-! ### Provider calls -/

/-- The (key, message) pairs of step 1 of generate: none where there is no additional input (R213). -/
def preUpdateCalls (H : Bytes → Bytes → Bytes) (k v : Bytes) : Opt → List (Bytes × Bytes)
  | none => []
  | some d => Drbg.updateCalls H k v (some d)

theorem generateCalls_eq (H : Bytes → Bytes → Bytes) (dl : Nat) (k v : Bytes) (a : Opt) (n : Nat) :
    Drbg.generateCalls H dl k v a n = preUpdateCalls H k v a ++
      ((List.range (ceilDiv n dl)).map fun i =>
        ((Drbg.preUpdate H k v a).1, Drbg.chainValue H (Drbg.preUpdate H k v a).1 (Drbg.preUpdate H k v a).2 i)) ++
      Drbg.updateCalls H (Drbg.preUpdate H k v a).1
        (Drbg.chainValue H (Drbg.preUpdate H k v a).1 (Drbg.preUpdate H k v a).2 (ceilDiv n dl)) a := by
  cases a <;> rfl

/-- Two or four calls of the last update, one a block, and four of step 1 where it runs (R154). -/
theorem generateCalls_length (H : Bytes → Bytes → Bytes) (dl : Nat) (k v : Bytes) (a : Opt) (n : Nat) :
    (Drbg.generateCalls H dl k v a n).length = ceilDiv n dl + if a.isSome then 8 else 2 := by
  simp only [generateCalls_eq, List.length_append, List.length_map, List.length_range, updateCalls_length]
  cases a with
  | none => simp [preUpdateCalls]
  | some d =>
    simp only [preUpdateCalls, updateCalls_length, Option.isSome_some, if_true]
    omega

theorem State.preUpdate_trace (s : State) (a : Opt) : (s.preUpdate a).trace = s.trace ++
    (preUpdateCalls (providerOf s.build s.gen.variant) s.gen.k s.gen.v a).map
      (providerEvent s.build s.gen.variant) := by
  cases a with
  | none => exact (List.append_nil _).symm
  | some d => exact s.update_trace .genPre (some d)

/-- A generate's calls: the pre-generation update's, one a block, the last update's (R154). -/
theorem State.generate_trace {s : State} (hd : 1 ≤ s.build.digestLen s.gen.variant) (add : Bool) :
    (s.generate add).trace = s.trace ++
      (Drbg.generateCalls (providerOf s.build s.gen.variant) (s.build.digestLen s.gen.variant) s.gen.k s.gen.v
        (s.additionalInput add) s.win.arg.toNat).map (providerEvent s.build s.gen.variant) := by
  obtain ⟨hb, -, -, -, -, hv, -, -, -, ht, hn⟩ :=
    (s.startGen (s.additionalInput add)).preUpdate_frame (s.additionalInput add)
  have hp := (s.startGen (s.additionalInput add)).preUpdate_pure (s.additionalInput add)
  have hcalls := (s.startGen (s.additionalInput add)).preUpdate_trace (s.additionalInput add)
  simp only [State.startGen_build, State.startGen_gen, State.startGen_seq_tbuf, State.startGen_seq_nreq,
    State.startGen_trace] at hb hv ht hn hp hcalls
  rw [← hb, ← hv] at hd
  unfold State.generate
  dsimp only
  rw [genLoop_eq_iterate _ ht hd, State.decrementCnt_trace, State.update_trace]
  obtain ⟨hV, hK, hvar, hbuild, -, -, htrace⟩ :=
    genBlock_iterate _ ht (ceilDiv s.win.arg.toNat (s.build.digestLen s.gen.variant))
  simp only [State.genTrunc_trace, State.genTrunc_build, State.genTrunc_gen, hn, hb, hv, hV, hK, hvar, hbuild, htrace,
    hcalls, generateCalls_eq, ← hp, List.map_append, List.append_assoc]

theorem State.generate_trace_length {s : State} (h : Sound s) (add : Bool) :
    (s.generate add).trace.length = s.trace.length +
      (ceilDiv s.win.arg.toNat (s.build.digestLen s.gen.variant) + if add then 8 else 2) := by
  rw [State.generate_trace (digestLen_bounds h.build_wf h.attached).1, List.length_append, List.length_map,
    generateCalls_length]
  cases add <;> rfl

theorem State.update_trace_length (s : State) (ret : URet) (d : Opt) :
    (s.update ret d).trace.length = s.trace.length + if d.isSome then 4 else 2 := by
  rw [State.update_trace, List.length_append, List.length_map, updateCalls_length]

/-- Settles O30: an error makes no call (R151), and a completion adds none to those of the command's own work. -/
theorem providerCallCounts : Obligations.ProviderCallCounts := by
  intro i s t hs h
  by_cases herr : t.win.err = .ok
  case neg => rw [if_pos herr, (exec_raised h herr).trace, Nat.add_zero]
  rw [if_neg (not_not.mpr herr)]
  cases i with
  | nop | zero =>
    cases h
    rfl
  | rdst =>
    rcases execRdst_cases s with ⟨-, he⟩ | ⟨-, he⟩ <;> rw [← Outcome.next.inj (he.symm.trans h)] <;> simp
  | inst p o v =>
    rcases execInst_cases s p o v with ⟨_, m, -, -, he⟩ | ⟨e, hne, he⟩ <;>
      obtain rfl := Outcome.next.inj (he.symm.trans h)
    · simp [State.update_trace_length]
    · exact absurd herr hne
  | rsd =>
    rcases execRsd_cases s with ⟨-, he⟩ | ⟨e, hne, he⟩ <;> obtain rfl := Outcome.next.inj (he.symm.trans h)
    · simp [State.update_trace_length]
    · exact absurd herr hne
  | gen add =>
    rcases execGen_cases s add with ⟨-, he⟩ | ⟨-, e, hne, he⟩ <;> obtain rfl := Outcome.next.inj (he.symm.trans h)
    · simpa using State.generate_trace_length hs add
    · exact absurd herr hne
  | gens add =>
    rcases execGens_cases s add with ⟨-, -, he⟩ | ⟨-, e, hne, he⟩ <;>
      obtain rfl := Outcome.next.inj (he.symm.trans h)
    · simpa using State.generate_trace_length hs add
    · exact absurd herr hne

end Sys2Proof.Machine
end

section
/-! SUPPORT. What CHECK starts for each command (40_update_engine.md rule R153). -/

namespace Sys2Proof.Machine

/-! ### CHECK against the command's meaning -/

theorem State.checkInst_ne_ok (s : State) (pers override : Bool) (var : BitVec 2) :
    s.checkInst pers override var ≠ .error .ok := by
  unfold State.checkInst
  repeat' split
  all_goals nofun

theorem State.checkGen_ne_ok (s : State) (add : Bool) : s.checkGen add ≠ some .ok := by
  unfold State.checkGen
  repeat' split
  all_goals nofun

theorem State.checkRsd_ne_ok (s : State) : s.checkRsd ≠ some .ok := by
  unfold State.checkRsd
  repeat' split
  all_goals nofun

/-- CHECK's exit for a ready GEN or GENS without additional input (R153). -/
theorem State.enterGenerate_absent {s : State} (h : GenReady s false) :
    s.enterGenerate false = (s.startGen none).goto .genBlock := by
  simp [State.enterGenerate, (s.checkGen_none_iff false).mpr h, State.additionalInput]

/-- CHECK's exit for a ready GEN or GENS with additional input (R153). -/
theorem State.enterGenerate_present {s : State} (h : GenReady s true) :
    s.enterGenerate true = (s.startGen (some s.operand0)).enterUpdate .genPre (some s.operand0) := by
  simp [State.enterGenerate, (s.checkGen_none_iff true).mpr h, State.additionalInput]

theorem State.enterGenerate_error {s : State} {add : Bool} {e : ErrKind} (h : s.checkGen add = some e) :
    s.enterGenerate add = s.finishWith e := by
  simp [State.enterGenerate, h]

theorem State.seqCheck_error {s : State} {e : DecodeError} (h : decode s.build.debugAccess s.seq.lcmd = .error e) :
    s.seqCheck = s.finishWith .illegalCommand := by
  rw [State.seqCheck, h]

/-- `Starts s i x u`: the checks of the command `i` of `s` pass; CHECK leaves `x` (R153), and the command's rule completes
`u` with OK (R263). -/
inductive Starts (s : State) : Instr → State → State → Prop where
  | nop : Starts s .nop (s.finishWith .ok) s
  | inst (pers override : Bool) (var : BitVec 2) (m : Word) (hc : s.checkInst pers override var = .ok m) :
      Starts s (.inst pers override var) ((s.loadInstance var m).enterUpdate .instSeed (some (s.instSeed pers)))
        ((s.loadInstance var m).update .instSeed (some (s.instSeed pers)))
  | gen (add : Bool) (hr : GenReady s add) : Starts s (.gen add) (s.enterGenerate add) (s.generate add)
  | rsd (hc : s.checkRsd = none) :
      Starts s .rsd (s.enterUpdate .rsdSeed (some s.rsdSeed)) (s.update .rsdSeed (some s.rsdSeed)).reloadCnt
  | gens (add : Bool) (hr : GenReady s add) : Starts s (.gens add) (s.enterGenerate add) (s.generate add).showKV
  | rdst : Starts s .rdst (s.showKV.showCnt.finishWith .ok) s.showKV.showCnt
  | zero : Starts s .zero (s.wipe.finishWith .ok) s.wipe

/-- CHECK and the command's meaning agree: both raise the same error, or both go on (R153, R310). -/
theorem seqCheck_cases {s : State} {i : Instr} (h : decode s.build.debugAccess s.seq.lcmd = .ok i) :
    (∃ u, Starts s i s.seqCheck u ∧ exec i s = .next (u.complete .ok)) ∨
      ∃ e, e ≠ .ok ∧ s.seqCheck = s.finishWith e ∧ exec i s = .next (s.complete e) := by
  have hlegal := decode_debug h
  unfold State.seqCheck
  rw [h]
  cases i <;> dsimp only
  case nop => exact .inl ⟨s, .nop, rfl⟩
  case zero => exact .inl ⟨s.wipe, .zero, rfl⟩
  case rdst => exact .inl ⟨s.showKV.showCnt, .rdst, if_pos hlegal⟩
  case inst pers override var =>
    rw [exec_inst, execInst]
    cases hc : s.checkInst pers override var with
    | ok m => exact .inl ⟨_, .inst pers override var m hc, rfl⟩
    | error e => exact .inr ⟨e, fun he => s.checkInst_ne_ok pers override var (he ▸ hc), rfl, rfl⟩
  case rsd =>
    rw [exec_rsd, execRsd]
    cases hc : s.checkRsd with
    | none => exact .inl ⟨_, .rsd hc, rfl⟩
    | some e => exact .inr ⟨e, fun he => s.checkRsd_ne_ok (he ▸ hc), rfl, rfl⟩
  case gen add =>
    rw [exec_gen, execGen]
    cases hc : s.checkGen add with
    | none => exact .inl ⟨_, .gen add ((s.checkGen_none_iff add).mp hc), rfl⟩
    | some e => exact .inr ⟨e, fun he => s.checkGen_ne_ok add (he ▸ hc), State.enterGenerate_error hc, rfl⟩
  case gens add =>
    have hdebug : s.build.debugAccess = true := hlegal
    rw [exec_gens, execGens, if_pos hdebug]
    cases hc : s.checkGen add with
    | none => exact .inl ⟨_, .gens add ((s.checkGen_none_iff add).mp hc), rfl⟩
    | some e => exact .inr ⟨e, fun he => s.checkGen_ne_ok add (he ▸ hc), State.enterGenerate_error hc, rfl⟩

/-! ### The exits of CHECK -/

/-- Going to COMPLETE with an outcome writes nothing else (R153). -/
theorem State.finishWith_checkLeft (s : State) (e : ErrKind) : CheckLeft s (s.finishWith e) (s.seq.completing e) :=
  ⟨rfl, rfl, rfl⟩

/-- A ready GEN or GENS latches its request and enters its first phase (R153). -/
theorem State.enterGenerate_checkLeft {s : State} {add : Bool} (h : GenReady s add) : CheckLeft s (s.enterGenerate add)
    (s.seq.generating s.win.arg (if add then some s.operand0 else none)) := by
  cases add with
  | false => rw [State.enterGenerate_absent h]; exact ⟨rfl, rfl, rfl⟩
  | true => rw [State.enterGenerate_present h]; exact ⟨rfl, rfl, rfl⟩

/-- DBG_CNT_LO and DBG_CNT_HI as numbers (R268). -/
theorem State.showCnt_toNat (s : State) : s.showCnt.win.dbgCntLo.toNat = s.gen.cnt.toNat % 2 ^ 32 ∧
    s.showCnt.win.dbgCntHi.toNat = s.gen.cnt.toNat / 2 ^ 32 := by
  have hlt := s.gen.cnt.isLt
  simp only [State.showCnt_win_dbgCntLo, State.showCnt_win_dbgCntHi, BitVec.extractLsb'_toNat,
    Nat.shiftRight_eq_div_pow]
  omega

/-- Settles O54: CHECK and the command's meaning agree on the outcome, and each row's exit is written out. -/
theorem checkStartsTheRowOfTheCommand : Obligations.CheckStartsTheRowOfTheCommand := by
  intro s hs ht hp
  have hstep : step s = .next s.seqCheck := by
    rw [step_busy ht (by simp [hp]), seqStep, hp]
  obtain ⟨hbuild, hhost, hdraws, htrace, -⟩ := s.seqCheck_exit.frame
  refine ⟨_, hstep, htrace, hbuild, hhost, hdraws, ?_⟩
  cases hd : decode s.build.debugAccess s.seq.lcmd with
  | error e =>
    rw [State.seqCheck_error hd]
    exact s.finishWith_checkLeft .illegalCommand
  | ok i =>
    rcases seqCheck_cases hd with ⟨u, hstart, hexec⟩ | ⟨e, hne, hcheck, hexec⟩
    · refine ⟨_, hexec, fun herr => absurd rfl herr, fun _ => ?_⟩
      generalize s.seqCheck = x at hstart
      cases hstart with
      | nop => exact s.finishWith_checkLeft .ok
      | inst => exact ⟨rfl, rfl, rfl, rfl, by simp [State.enterUpdate], rfl, rfl, rfl⟩
      | gen add hr | gens add hr => exact State.enterGenerate_checkLeft hr
      | rsd => exact ⟨rfl, rfl, rfl⟩
      | rdst =>
        have hshows := State.showKV_shows hs
        obtain ⟨hlo, hhi⟩ := s.showKV.showCnt_toNat
        rw [State.showKV_gen] at hlo hhi
        exact ⟨rfl, by simp, ⟨hshows.dbgK, hshows.dbgV⟩, hlo, hhi, rfl, fun a => s.showKV_read_outside⟩
      | zero => exact ⟨rfl, rfl, rfl⟩
    · rw [hcheck]
      exact ⟨_, hexec, fun _ => s.finishWith_checkLeft e, fun herr => absurd herr hne⟩

end Sys2Proof.Machine
end

section
/-! SUPPORT. From CHECK to the completion, phase by phase: the micro-sequence ends in the state that the command-level rule
gives (40_update_engine.md rules R150, R153, R155). -/

namespace Sys2Proof.Machine

/-! ### Runs of the sequencer -/

/-- Some number of phases leads from `s` to `t`, with BUSY 1 at each of them. -/
inductive BusyRun : State → State → Prop where
  | refl (s : State) : BusyRun s s
  | head {s t : State} (hb : s.busy = true) (h : BusyRun (seqStep s) t) : BusyRun s t

theorem BusyRun.trans {s t u : State} (h : BusyRun s t) (h' : BusyRun t u) : BusyRun s u := by
  induction h with
  | refl => exact h'
  | head hb _ ih => exact .head hb (ih h')

/-- A phase of its own. -/
theorem BusyRun.phase {s t : State} (hb : s.busy = true) (h : seqStep s = t) : BusyRun s t :=
  .head hb (h ▸ .refl _)

theorem BusyRun.exists_seqRun {s t : State} (h : BusyRun s t) :
    ∃ k, seqRun k s = t ∧ ∀ j, j < k → (seqRun j s).busy = true := by
  induction h with
  | refl s => exact ⟨0, rfl, fun j hj => absurd hj j.not_lt_zero⟩
  | head hb _ ih =>
    obtain ⟨k, hend, hbusy⟩ := ih
    refine ⟨k + 1, hend, fun j hj => ?_⟩
    cases j with
    | zero => exact hb
    | succ j => exact hbusy j (Nat.lt_of_succ_lt_succ hj)

/-! ### The update engine -/

/-- Steps 4 and 5 (R142, R144). -/
theorem State.updK1_busyRun (s : State) : BusyRun (s.goto .updK1) (s.updK1.updV1.goto s.seq.uret.phase) :=
  .head rfl (.head rfl (.refl _))

/-- The update engine's phases do what UPDATE does, and return to the caller (R150). -/
theorem State.update_busyRun (s : State) (ret : URet) (d : Opt) :
    BusyRun (s.enterUpdate ret d) ((s.update ret d).goto ret.phase) := by
  cases d with
  | none => exact .head rfl (.head rfl (.refl _))
  | some d =>
    have hfirst : BusyRun (s.enterUpdate ret (some d)) ((s.setUpdate ret (some d)).updK0.updV0.goto .updK1) :=
      .head rfl (.head rfl (.refl _))
    exact hfirst.trans (State.updK1_busyRun _)

theorem State.cntOp_busyRun (s : State) : BusyRun (s.goto .cntOp) (s.seqCount.goto .complete) := by
  refine .phase rfl ?_
  show (s.goto .cntOp).seqCount.goto .complete = s.seqCount.goto .complete
  unfold State.seqCount
  rw [State.goto_seq_uret]
  cases s.seq.uret <;> rfl

/-- The update of an RSD and the reload (R153, R174). -/
theorem State.reseed_busyRun (s : State) (d : Opt) :
    BusyRun (s.enterUpdate .rsdSeed d) ((s.update .rsdSeed d).reloadCnt.goto .complete) := by
  have hcount := State.cntOp_busyRun (s.update .rsdSeed d)
  rw [State.seqCount_rsdSeed (State.update_uret _ _ _)] at hcount
  exact (State.update_busyRun s .rsdSeed d).trans hcount

/-! ### Generate -/

theorem State.genLoop_of_done {s : State} (h : s.wantsBlock = false) (fuel : Nat) : s.genLoop fuel = s := by
  cases fuel with
  | zero => rfl
  | succ n => simp [State.genLoop, h]

/-- GEN_BLOCK goes on until TBUF is long enough, as the loop of R210 does, for every fuel that covers what is missing. -/
theorem State.genLoop_busyRun {s : State} (fuel : Nat) (hd : 1 ≤ s.build.digestLen s.gen.variant)
    (hw : s.wantsBlock = true) (hf : s.seq.nreq.toNat ≤ s.seq.tbuf.length + fuel) :
    BusyRun (s.goto .genBlock) ((s.genLoop fuel).goto .genTrunc) := by
  induction fuel generalizing s with
  | zero =>
    rw [State.wantsBlock_iff] at hw
    omega
  | succ n ih =>
    have hpass : seqStep (s.goto .genBlock) =
        s.genBlock.goto (if s.genBlock.wantsBlock then .genBlock else .genTrunc) := rfl
    refine .head rfl ?_
    rw [hpass, State.genLoop, if_pos hw]
    cases hmore : s.genBlock.wantsBlock with
    | true =>
      refine ih hd hmore ?_
      simp only [State.genBlock_seq_nreq, State.genBlock_seq_tbuf, List.length_append, State.hmac_eq,
        providerOf_length]
      omega
    | false =>
      rw [State.genLoop_of_done hmore]
      exact .refl _

theorem State.preUpdate_adata (s : State) (a : Opt) : (s.preUpdate a).seq.adata = s.seq.adata := by
  cases a with
  | none => rfl
  | some d => exact s.update_adata .genPre (some d)

/-- CHECK's exit of a ready GEN or GENS, and its pre-generation update where there is one (R153, R213). -/
theorem State.preUpdate_busyRun {s : State} {add : Bool} (hr : GenReady s add) : BusyRun (s.enterGenerate add)
    (((s.startGen (s.additionalInput add)).preUpdate (s.additionalInput add)).goto .genBlock) := by
  cases add with
  | false =>
    rw [State.enterGenerate_absent hr]
    exact .refl _
  | true =>
    rw [State.enterGenerate_present hr]
    exact State.update_busyRun _ .genPre (some s.operand0)

/-- The last update, entered from GEN_TRUNC, and the decrement (R153, R173). -/
theorem State.postUpdate_busyRun (s : State) {a : Opt} (ha : s.seq.adata = a) :
    BusyRun (s.goto .genTrunc) ((s.genTrunc.update .genPost a).decrementCnt.goto .complete) := by
  have htrunc : seqStep (s.goto .genTrunc) = s.genTrunc.enterUpdate .genPost a := by
    rw [← ha]
    rfl
  have hcount := State.cntOp_busyRun (s.genTrunc.update .genPost a)
  rw [State.seqCount_genPost (State.update_uret _ _ _)] at hcount
  exact (BusyRun.phase rfl htrunc).trans ((State.update_busyRun _ .genPost a).trans hcount)

/-- A ready GEN or GENS reaches COMPLETE with all that the rule of R210 writes. -/
theorem State.generate_busyRun {s : State} {add : Bool} (hd : 1 ≤ s.build.digestLen s.gen.variant)
    (hr : GenReady s add) : BusyRun (s.enterGenerate add) ((s.generate add).goto .complete) := by
  obtain ⟨hb, -, -, -, -, hv, -, -, -, ht, hn⟩ :=
    (s.startGen (s.additionalInput add)).preUpdate_frame (s.additionalInput add)
  have ha := (s.startGen (s.additionalInput add)).preUpdate_adata (s.additionalInput add)
  simp only [State.startGen_build, State.startGen_gen, State.startGen_seq_tbuf, State.startGen_seq_nreq,
    State.startGen_seq_adata] at hb hv ht hn ha
  have hpos : 0 < s.win.arg.toNat := Nat.pos_of_ne_zero fun h0 => hr.arg_pos (BitVec.eq_of_toNat_eq h0)
  refine (State.preUpdate_busyRun hr).trans (.trans ?loop (State.postUpdate_busyRun _ ?adata))
  case loop =>
    refine State.genLoop_busyRun _ ?_ ?_ ?_
    · rwa [hb, hv]
    · rw [State.wantsBlock_iff, ht, hn]
      exact hpos
    · rw [ht]
      exact Nat.le_add_left _ _
  case adata => rw [State.genLoop_adata, ha]

theorem State.generate_outcome (s : State) (add : Bool) : (s.generate add).seq.outcome = s.seq.outcome := by
  unfold State.generate
  cases add <;> simp [State.preUpdate, State.additionalInput]

/-! ### COMPLETE -/

/-- COMPLETE, but for a GENS that succeeded (R153, R262). -/
theorem State.complete_busyRun {s : State}
    (h : ∀ add, decode s.build.debugAccess s.seq.lcmd = .ok (.gens add) → s.seq.outcome ≠ .ok) :
    BusyRun (s.goto .complete) (s.complete s.seq.outcome) :=
  .phase rfl (State.seqComplete_other (s := s.goto .complete) h)

/-- COMPLETE of a GENS that succeeded (R153, R225). -/
theorem State.complete_gens_busyRun {s : State} {add : Bool}
    (hd : decode s.build.debugAccess s.seq.lcmd = .ok (.gens add)) (ho : s.seq.outcome = .ok) :
    BusyRun (s.goto .complete) (s.showKV.complete .ok) :=
  .phase rfl (State.seqComplete_gens (s := s.goto .complete) hd ho)

/-- A command that fails in CHECK only completes (R153, R310). -/
theorem State.finishWith_busyRun (s : State) {e : ErrKind} (he : e ≠ .ok) :
    BusyRun (s.finishWith e) (s.complete e) :=
  State.complete_busyRun (s := { s with seq.outcome := e }) fun _ _ => he

/-- ISSUE has left OK as the outcome already (log entry 6). -/
theorem State.finishWith_ok {s : State} (h : s.seq.outcome = .ok) : s.finishWith .ok = s.goto .complete := by
  rw [← h]
  rfl

/-! ### Whole commands -/

/-- A command whose checks pass reaches its completion (R153, R155). -/
theorem Starts.busyRun {s : State} {i : Instr} {x u : State} (h : Starts s i x u)
    (hd : decode s.build.debugAccess s.seq.lcmd = .ok i) (ho : s.seq.outcome = .ok)
    (hdl : 1 ≤ s.build.digestLen s.gen.variant) : BusyRun x (u.complete .ok) := by
  have ends (y : State) (hi : ∀ add, i ≠ .gens add) (hb : y.build = s.build) (hl : y.seq.lcmd = s.seq.lcmd)
      (hy : y.seq.outcome = s.seq.outcome) : BusyRun (y.goto .complete) (y.complete .ok) := by
    have hrun := State.complete_busyRun (s := y) fun add hg => by
      rw [hb, hl, hd] at hg
      exact absurd (Except.ok.inj hg) (hi add)
    rwa [hy, ho] at hrun
  cases h with
  | nop =>
    rw [State.finishWith_ok ho]
    exact ends s nofun rfl rfl rfl
  | rdst =>
    rw [State.finishWith_ok (by simpa using ho)]
    exact ends s.showKV.showCnt nofun (by simp) (by simp) (by simp)
  | zero =>
    rw [State.finishWith_ok (by simpa using ho)]
    exact ends s.wipe nofun (by simp) (by simp) (by simp)
  | inst pers override var m hc =>
    exact (State.update_busyRun _ .instSeed _).trans (ends _ nofun (by simp) (by simp) (by simp))
  | rsd hc => exact (s.reseed_busyRun _).trans (ends _ nofun (by simp) (by simp) (by simp))
  | gen add hr =>
    obtain ⟨hb, -, -, hl, -⟩ := s.generate_frame add
    exact (State.generate_busyRun hdl hr).trans (ends _ nofun hb hl (s.generate_outcome add))
  | gens add hr =>
    obtain ⟨hb, -, -, hl, -⟩ := s.generate_frame add
    have hgens := State.complete_gens_busyRun (s := s.generate add) (add := add) (by rw [hb, hl, hd])
      ((s.generate_outcome add).trans ho)
    exact (State.generate_busyRun hdl hr).trans hgens

/-- From CHECK, the sequencer ends where the command-level rule does, whatever the word (R155). -/
theorem runCommand_busyRun {s : State} (hp : s.seq.phase = .check) (ho : s.seq.outcome = .ok)
    (hdl : 1 ≤ s.build.digestLen s.gen.variant) :
    ∃ t, runCommand s = .next t ∧ BusyRun s t ∧ t.busy = false := by
  have hcheck : BusyRun s s.seqCheck := .phase (by simp [hp]) (by rw [seqStep, hp])
  cases hd : decode s.build.debugAccess s.seq.lcmd with
  | error e =>
    rw [State.seqCheck_error hd] at hcheck
    exact ⟨_, runCommand_error hd, hcheck.trans (s.finishWith_busyRun (by decide)), rfl⟩
  | ok i =>
    rw [runCommand_ok hd]
    rcases seqCheck_cases hd with ⟨u, hstart, hexec⟩ | ⟨e, hne, he, hexec⟩
    · exact ⟨_, hexec, hcheck.trans (hstart.busyRun hd ho hdl), rfl⟩
    · rw [he] at hcheck
      exact ⟨_, hexec, hcheck.trans (s.finishWith_busyRun hne), rfl⟩

/-- Settles O36: an issued command stands in CHECK, with an attached variant. -/
theorem microSequenceRefinesTheCommand : Obligations.MicroSequenceRefinesTheCommand := by
  intro s w hs hidle
  have hinv := (State.issue_parts hs hidle w).inv
  obtain ⟨t, hcommand, hrun, ht⟩ := runCommand_busyRun (s.issue_seq_phase w) (s.issue_seq_outcome w)
    (digestLen_bounds hinv.build_wf hinv.attached).1
  obtain ⟨k, hend, hbusy⟩ := hrun.exists_seqRun
  exact ⟨k, t, hcommand, hend, ht, hbusy⟩

end Sys2Proof.Machine
end

section
/-! SUPPORT. What GEN and GENS do to the counter: one decrement where they succeed, and only a completion where it is
exhausted (41_counter_unit.md rules R172, R173, R177). -/

namespace Sys2Proof.Machine

open Host

/-! ### GEN and GENS together -/

/-- A generate finds the counter above 0 and leaves GEN's generator state, or it raises and only completes. -/
theorem exec_generate_cases {add : Bool} {i : Instr} (hi : i = .gen add ∨ i = .gens add) (s : State) :
    (s.gen.cnt ≠ 0 ∧ ∃ x : State, x.gen = (s.generate add).gen ∧ exec i s = .next (x.complete .ok)) ∨
      ∃ e, e ≠ .ok ∧ exec i s = .next (s.complete e) := by
  rcases hi with rfl | rfl
  · rcases execGen_cases s add with ⟨hr, he⟩ | ⟨-, hraise⟩
    · exact .inl ⟨hr.cnt, _, rfl, he⟩
    · exact .inr hraise
  · rcases execGens_cases s add with ⟨-, hr, he⟩ | ⟨-, hraise⟩
    · exact .inl ⟨hr.cnt, _, by simp, he⟩
    · exact .inr hraise

/-- The error of the checks is the command's, for GENS in a debug build (R225, R310). -/
theorem exec_generate_of_checkGen {add : Bool} {i : Instr} (hi : i = .gen add ∨ i = .gens add) {s : State} {e : ErrKind}
    (hdebug : i = .gens add → s.build.debugAccess = true) (hcheck : s.checkGen add = some e) :
    exec i s = .next (s.complete e) := by
  rcases hi with rfl | rfl
  · simp [execGen, hcheck]
  · simp [execGens, hdebug rfl, hcheck]

/-! ### The counter -/

/-- R173: a generate that succeeds takes one off the counter, which does not wrap. -/
theorem exec_generate_cnt {add : Bool} {i : Instr} (hi : i = .gen add ∨ i = .gens add) {s t : State}
    (h : exec i s = .next t) (hok : t.win.err = .ok) : t.gen.cnt.toNat + 1 = s.gen.cnt.toNat := by
  rcases exec_generate_cases hi s with ⟨hne, x, hgen, he⟩ | ⟨e, hne, he⟩ <;>
    obtain rfl := Outcome.next.inj (he.symm.trans h)
  · obtain ⟨hcnt, -⟩ := s.generate_fields add
    rw [State.complete_gen, hgen, hcnt]
    bv_omega
  · exact absurd hok hne

/-- R172: no generate succeeds off an exhausted counter; it only completes. -/
theorem exec_generate_exhausted {add : Bool} {i : Instr} (hi : i = .gen add ∨ i = .gens add) {s : State}
    (hcnt : s.gen.cnt = 0) : ∃ e, e ≠ .ok ∧ exec i s = .next (s.complete e) := by
  rcases exec_generate_cases hi s with ⟨hne, -⟩ | hraise
  · exact absurd hcnt hne
  · exact hraise

/-- R172, R310: with an instance and the lengths in range, the comparator decides. -/
theorem State.checkGen_exhausted {s : State} {add : Bool} (hinst : s.gen.inst = true) (harg : s.win.arg ≠ 0)
    (hmax : s.win.arg.toNat ≤ s.build.maxOutLen) (hadd : add = true → s.win.len0.toNat ≤ s.build.maxInLen)
    (hcnt : s.gen.cnt = 0) : s.checkGen add = some .reseedRequired := by
  have hlen : (add && !s.fits s.win.len0) = false := by
    cases add with
    | false => rfl
    | true => simpa [State.fits] using hadd rfl
  simpa [State.checkGen, State.exhausted, hinst, hmax.not_gt, hlen, hcnt] using harg

/-- A run of `k` generates takes `k` off the counter (R177). -/
theorem GenerateRun.cnt {k : Nat} {s t : State} (h : GenerateRun k s t) : t.gen.cnt.toNat + k = s.gen.cnt.toNat := by
  induction h with
  | start s => rfl
  | idle k s t u _ hgen _ ih => rw [hgen, ih]
  | gen k s t u add _ hexec hok ih =>
    have hdec := exec_generate_cnt (.inl rfl) hexec hok
    omega
  | gens k s t u add _ hexec hok ih =>
    have hdec := exec_generate_cnt (.inr rfl) hexec hok
    omega

/-- Settles O32: the run has counted down, and at 0 a generate only completes, with the error of the first check that fails. -/
theorem counterCountsGenerates : Obligations.CounterCountsGenerates := by
  intro k s t hrun
  refine ⟨hrun.cnt, fun hk add i hi => ?_⟩
  have hcnt : t.gen.cnt = 0 := by
    have hsum := hrun.cnt
    bv_omega
  obtain ⟨e, hne, hexec⟩ := exec_generate_exhausted hi hcnt
  refine ⟨_, hexec, hne, rfl, fun hinst harg hmax hadd hdebug => ?_⟩
  have hreseed := exec_generate_of_checkGen hi hdebug (State.checkGen_exhausted hinst harg hmax hadd hcnt)
  rw [Outcome.next.inj (hexec.symm.trans hreseed)]
  exact t.raised_complete .reseedRequired

end Sys2Proof.Machine
end

section
/-! SUPPORT. INST: the exits of its checks in the order of R310, and the generator state it leaves (42_instantiate.md). -/

namespace Sys2Proof.Machine

/-! ### The checks of INST, one lemma an exit -/

/-- Every length an INST uses is in range (R190, R307). -/
structure InstLengthsFit (s : State) (pers : Bool) : Prop where
  len0 : s.win.len0.toNat ≤ s.build.maxInLen
  len1 : s.win.len1.toNat ≤ s.build.maxInLen
  len2 : pers = true → s.win.len2.toNat ≤ s.build.maxInLen

/-- The length check, the first of `checkInst`, passes exactly where the lengths are in range. -/
theorem instLengthsFit_iff (s : State) (pers : Bool) : InstLengthsFit s pers ↔
    (!s.fits s.win.len0 || !s.fits s.win.len1 || (pers && !s.fits s.win.len2)) = false := by
  have hconj : InstLengthsFit s pers ↔ s.win.len0.toNat ≤ s.build.maxInLen ∧ s.win.len1.toNat ≤ s.build.maxInLen ∧
      (pers = true → s.win.len2.toNat ≤ s.build.maxInLen) :=
    ⟨fun h => ⟨h.len0, h.len1, h.len2⟩, fun ⟨h0, h1, h2⟩ => ⟨h0, h1, h2⟩⟩
  simp [hconj, State.fits_iff, and_assoc]

section
variable {s : State} {pers override : Bool} {var : BitVec 2} {info : Config.VariantInfo} {m : Word}

/-- R190: a used length above MAX_IN_LEN. -/
theorem State.checkInst_invalidLength (h : ¬InstLengthsFit s pers) :
    s.checkInst pers override var = .error .invalidLength := by
  rw [instLengthsFit_iff, Bool.not_eq_false] at h
  rw [State.checkInst, if_pos h]

/-- R190: no provider is attached to the variant. -/
theorem State.checkInst_unattached (hfit : InstLengthsFit s pers) (hvar : s.build.variantInfo var = none) :
    s.checkInst pers override var = .error .unsupportedHashVariant := by
  simp [State.checkInst, (instLengthsFit_iff s pers).mp hfit, hvar]

/-- R193: no ARG override, and the variant has no default. -/
theorem State.checkInst_noDefault (hfit : InstLengthsFit s pers) (hvar : s.build.variantInfo var = some info)
    (hmin : s.instMinEnt override info.defMin = none) :
    s.checkInst pers override var = .error .unsupportedHashVariant := by
  simp [State.checkInst, (instLengthsFit_iff s pers).mp hfit, hvar, hmin]

/-- R194: the build checks the entropy, and there is less than the minimum. -/
theorem State.checkInst_insufficientEntropy (hfit : InstLengthsFit s pers) (hvar : s.build.variantInfo var = some info)
    (hmin : s.instMinEnt override info.defMin = some m) (hcheck : s.build.instEntropyCheck = true)
    (hlow : s.win.len0.toNat < m.toNat) : s.checkInst pers override var = .error .insufficientEntropy := by
  simp [State.checkInst, (instLengthsFit_iff s pers).mp hfit, hvar, hmin, hcheck, hlow]

/-- R190, R193, R194: every check passes. -/
theorem State.checkInst_ok (hfit : InstLengthsFit s pers) (hvar : s.build.variantInfo var = some info)
    (hmin : s.instMinEnt override info.defMin = some m)
    (hfloor : s.build.instEntropyCheck = true → m.toNat ≤ s.win.len0.toNat) :
    s.checkInst pers override var = .ok m := by
  simpa [State.checkInst, (instLengthsFit_iff s pers).mp hfit, hvar, hmin] using hfloor

/-- R196: the full update on the seed, from the initial values. -/
theorem execInst_completes (h : s.checkInst pers override var = .ok m) : exec (.inst pers override var) s =
    .next (((s.loadInstance var m).update .instSeed (some (s.instSeed pers))).complete .ok) := by
  simp [execInst, h]

/-- The error of the checks is the command's (R199). -/
theorem execInst_raised {e : ErrKind} (h : s.checkInst pers override var = .error e) :
    ∃ t, exec (.inst pers override var) s = .next t ∧ Raised s t e :=
  ⟨_, by simp [execInst, h], s.raised_complete e⟩

end

/-- Settles O18: each clause is one exit of the checks. -/
theorem instErrorsInOrder : Obligations.InstErrorsInOrder := by
  refine fun s pers override var => ⟨fun hlong => ?_, fun h0 h1 h2 => ?_⟩
  · refine execInst_raised (State.checkInst_invalidLength fun ⟨h0, h1, h2⟩ => ?_)
    rcases hlong with hlong | hlong | ⟨hp, hlong⟩
    · exact hlong.not_ge h0
    · exact hlong.not_ge h1
    · exact hlong.not_ge (h2 hp)
  · have hfit : InstLengthsFit s pers := ⟨h0, h1, h2⟩
    refine ⟨fun hvar => execInst_raised (State.checkInst_unattached hfit hvar), fun info hvar => ⟨fun ho hdef => ?_,
      fun m hmin hcheck hlow => execInst_raised (State.checkInst_insufficientEntropy hfit hvar hmin hcheck hlow)⟩⟩
    have hmin : s.instMinEnt override info.defMin = none := by simp [State.instMinEnt, ho, hdef]
    exact execInst_raised (State.checkInst_noDefault hfit hvar hmin)

/-! ### The generator state an INST leaves -/

/-- Of the generator state, UPDATE rewrites K and V, by the pure function of R140. -/
theorem State.update_gen (s : State) (ret : URet) (d : Opt) :
    (s.update ret d).gen = { s.gen with
      k := (Drbg.update (providerOf s.build s.gen.variant) s.gen.k s.gen.v d).1
      v := (Drbg.update (providerOf s.build s.gen.variant) s.gen.k s.gen.v d).2 } := by
  cases d <;> rfl

/-- What an INST that passed its checks leaves in the generator state: a function of the build, the variant, the minimum
entropy and the seed (R195 to R198). -/
def instantiated (b : Config.Build) (var : BitVec 2) (m : Word) (seed : Bytes) : Gen where
  inst := true
  variant := var
  minEnt := m
  k := (Drbg.update (providerOf b var) (zeros (b.digestLen var)) (fill (b.digestLen var) 0x01) (some seed)).1
  v := (Drbg.update (providerOf b var) (zeros (b.digestLen var)) (fill (b.digestLen var) 0x01) (some seed)).2
  cnt := b.ri

theorem State.loadInstance_update_gen (s : State) (var : BitVec 2) (m : Word) (ret : URet) (seed : Bytes) :
    ((s.loadInstance var m).update ret (some seed)).gen = instantiated s.build var m seed := by
  rw [State.update_gen]
  rfl

/-- Settles O17: with the checks passed, the effects are those of the update from the initial values. -/
theorem instCreatesTheInstance : Obligations.InstCreatesTheInstance := by
  intro s pers override var info m h0 h1 h2 hvar hmin hfloor
  have hdl : s.build.digestLen var = info.dl := by rw [Config.Build.digestLen, hvar]
  have hcheck : s.checkInst pers override var = .ok m := State.checkInst_ok ⟨h0, h1, h2⟩ hvar hmin hfloor
  have hgen := s.loadInstance_update_gen var m .instSeed (s.instSeed pers)
  have htrace := (s.loadInstance var m).update_trace .instSeed (some (s.instSeed pers))
  rw [← hdl]
  refine ⟨_, execInst_completes hcheck, State.completed_complete (by simp) (by simp) (by simp) (by simp) .ok,
    State.outputsKept_complete (by simp) (by simp) .ok, ?_⟩
  rw [State.complete_gen, hgen]
  exact ⟨rfl, rfl, rfl, rfl, by simp, rfl, htrace⟩

/-- A successful INST leaves what the build, the variant, the minimum entropy it fixed and the seed determine (R198). -/
theorem execInst_gen {pers override : Bool} {var : BitVec 2} {s t : State}
    (h : exec (.inst pers override var) s = .next t) (hok : t.win.err = .ok) :
    t.gen = instantiated s.build var t.gen.minEnt (s.instSeed pers) := by
  rw [exec_inst] at h
  rcases execInst_cases s pers override var with ⟨_, m, -, -, he⟩ | ⟨e, hne, he⟩ <;>
    obtain rfl := Host.Outcome.next.inj (he.symm.trans h)
  · rw [State.complete_gen, State.loadInstance_update_gen]
    rfl
  · exact absurd hok hne

/-- Settles O19: both states are one function of what the hypotheses make equal. -/
theorem instDependsOnTheSeedAlone : Obligations.InstDependsOnTheSeedAlone := by
  intro s s' t t' pers pers' override override' var hbuild h h' hok hok' hmin hseed
  have hseed' : s.instSeed pers = s'.instSeed pers' := hseed
  rw [execInst_gen h hok, execInst_gen h' hok', hbuild, hmin, hseed']

end Sys2Proof.Machine
end

section
/-! SUPPORT. GEN and GENS: the generator state they leave, the bytes of OUT, and the exits of their checks
(43_generate.md). -/

namespace Sys2Proof.Machine

/-! ### The pure function -/

/-- Byte `j` of `V_1 ‖ … ‖ V_b` is byte `j mod DL` of the V of pass `j / DL + 1` (R214). -/
theorem blocks_getElem? {b : Config.Build} {var : BitVec 2} (k v : Bytes) {j m : Nat}
    (hj : j < m * b.digestLen var) : (Drbg.blocks (providerOf b var) k v m)[j]? =
      (Drbg.chainValue (providerOf b var) k v (j / b.digestLen var + 1))[j % b.digestLen var]? := by
  induction m with
  | zero => omega
  | succ m ih =>
    rw [blocks_succ]
    by_cases hin : j < m * b.digestLen var
    · rw [List.getElem?_append_left (by rwa [blocks_length]), ih hin]
    · have hdiv : j / b.digestLen var = m := Nat.div_eq_of_lt_le (by omega) hj
      have hmod : j % b.digestLen var = j - m * b.digestLen var := by
        rw [Nat.mod_eq_sub_div_mul, hdiv]
      rw [List.getElem?_append_right (by rw [blocks_length]; omega), blocks_length, hdiv, hmod]

/-- `ceil(n / d)` blocks of `d` bytes are enough for `n` bytes. -/
theorem le_ceilDiv_mul {n d : Nat} (hd : 1 ≤ d) : n ≤ ceilDiv n d * d :=
  not_lt.mp fun h => lt_irrefl _ ((mul_lt_iff_lt_ceilDiv _ _ hd).mp h)

/-- Byte `j` of the output comes from pass `j / DL + 1`, keyed with the K that step 1 left (R214). -/
theorem output_getElem? {b : Config.Build} {var : BitVec 2} (k v : Bytes) (a : Opt) (hd : 1 ≤ b.digestLen var)
    {j n : Nat} (hj : j < n) : (Drbg.output (providerOf b var) (b.digestLen var) k v a n)[j]? =
      (Drbg.chainValue (providerOf b var) (Drbg.preUpdate (providerOf b var) k v a).1
        (Drbg.preUpdate (providerOf b var) k v a).2 (j / b.digestLen var + 1))[j % b.digestLen var]? := by
  rw [Drbg.output, List.getElem?_take_of_lt hj]
  exact blocks_getElem? _ _ (hj.trans_le (le_ceilDiv_mul hd))

theorem output_length {b : Config.Build} {var : BitVec 2} (k v : Bytes) (a : Opt) (n : Nat) (hd : 1 ≤ b.digestLen var) :
    (Drbg.output (providerOf b var) (b.digestLen var) k v a n).length = n := by
  rw [Drbg.output, List.length_take, blocks_length]
  exact min_eq_left (le_ceilDiv_mul hd)

/-! ### The generator state and the window after a generate -/

/-- A generate leaves the K and V of the pure function (R213 to R215). -/
theorem State.generate_pure {s : State} (hd : 1 ≤ s.build.digestLen s.gen.variant) (add : Bool) :
    ((s.generate add).gen.k, (s.generate add).gen.v) = Drbg.after (providerOf s.build s.gen.variant)
      (s.build.digestLen s.gen.variant) s.gen.k s.gen.v (s.additionalInput add) s.win.arg.toNat := by
  obtain ⟨hb, -, -, -, -, hv, -, -, -, ht, hn⟩ :=
    (s.startGen (s.additionalInput add)).preUpdate_frame (s.additionalInput add)
  have hp := (s.startGen (s.additionalInput add)).preUpdate_pure (s.additionalInput add)
  simp only [State.startGen_build, State.startGen_gen, State.startGen_seq_tbuf, State.startGen_seq_nreq] at hb hv ht hn hp
  rw [← hb, ← hv] at hd
  unfold State.generate
  dsimp only
  rw [genLoop_eq_iterate _ ht hd, State.decrementCnt_gen_k, State.decrementCnt_gen_v, State.update_pure]
  obtain ⟨hV, hK, hvar, hbuild, -⟩ := genBlock_iterate _ ht (ceilDiv s.win.arg.toNat (s.build.digestLen s.gen.variant))
  simp only [State.genTrunc_build, State.genTrunc_gen, hn, hb, hv, hV, hK, hvar, hbuild, Drbg.after, ← hp]

/-- A generate puts the output of the pure function in OUT (R214, R216). -/
theorem State.generate_out {s : State} {add : Bool} (hs : Sound s) (hr : GenReady s add) {j : Nat}
    (hj : j < s.win.arg.toNat) : (Drbg.output (providerOf s.build s.gen.variant) (s.build.digestLen s.gen.variant)
      s.gen.k s.gen.v (s.additionalInput add) s.win.arg.toNat)[j]? =
        some ((s.generate add).win.mem.read (Buf.out.offset + j)) := by
  have hout : s.generated add = Drbg.output (providerOf s.build s.gen.variant) (s.build.digestLen s.gen.variant)
    s.gen.k s.gen.v (s.additionalInput add) s.win.arg.toNat := State.generated_eq_output hs add
  have hlen : j < (s.generated add).length := by
    rwa [hout, output_length _ _ _ _ (digestLen_bounds hs.build_wf hs.attached).1]
  rw [← hout, State.generate_win, s.storeBuf_read_inside .out _ hs.mem_wf hlen (hj.trans_le hr.arg_le)]
  exact List.getElem?_eq_getElem hlen

/-- A generate writes no byte but the first `ARG` of OUT (R216). -/
theorem State.generate_read_outside (s : State) (add : Bool) {a : Nat}
    (h : Buf.out.firstBytes s.win.arg.toNat a = false) : (s.generate add).win.mem.read a = s.win.mem.read a := by
  have hlen := s.generated_length_le add
  rw [Buf.not_firstBytes_iff] at h
  rw [State.generate_win, State.storeBuf_read_other _ _ _ (by omega)]

/-! ### The effect of GEN and GENS -/

/-- R213 to R217: what steps 1 to 5 do, before anything is shown and the command completes. -/
theorem State.generate_effect {s : State} {add : Bool} (hs : Sound s) (hr : GenReady s add) :
    GenerateEffect s (s.generate add) (s.additionalInput add) := by
  have hd := (digestLen_bounds hs.build_wf hs.attached).1
  obtain ⟨-, -, -, -, hinst, hvar, hmin, hcnt, huret, hlen, hlo, hhi⟩ := s.generate_frame add
  exact ⟨State.generate_pure hd add, hcnt, ⟨hinst, hvar, hmin⟩, hlen, fun _ => State.generate_out hs hr,
    State.generate_trace hd add, ⟨hlo, hhi⟩, huret⟩

/-- COMPLETE clears operand bytes only, none of which is a byte of OUT. -/
theorem GenerateEffect.complete {s x : State} {a : Opt} (h : GenerateEffect s x a) (hb : x.build.wf = true)
    (c : ErrKind) : GenerateEffect s (x.complete c) a :=
  { h with
    output := fun j hj => by
      rw [State.complete_read_kept rfl c (not_inputByte hb (by simp only [Buf.offset]; omega))]
      exact h.output j hj }

/-- `showKV` writes the debug buffers only, which end below OUT. -/
theorem GenerateEffect.showKV {s x : State} {a : Opt} (h : GenerateEffect s x a) : GenerateEffect s x.showKV a :=
  { h with
    output := fun j hj => by
      rw [State.showKV_read_other]
      · exact h.output j hj
      all_goals
        simp only [Buf.not_holds_iff, Buf.offset, Buf.size, Config.dlMax]
        omega }

theorem execGen_ready {s : State} {add : Bool} (h : GenReady s add) :
    exec (.gen add) s = .next ((s.generate add).complete .ok) := by
  simp [execGen, (s.checkGen_none_iff add).mpr h]

theorem execGens_ready {s : State} {add : Bool} (h : GenReady s add) (hdebug : s.build.debugAccess = true) :
    exec (.gens add) s = .next ((s.generate add).showKV.complete .ok) := by
  simp [execGens, hdebug, (s.checkGen_none_iff add).mpr h]

/-- A generate leaves a state of which the statements about one command hold. -/
theorem State.generate_sound {s : State} (hs : Sound s) (add : Bool) : Sound (s.generate add) := by
  obtain ⟨hb, -, -, -, -, hvar, -⟩ := s.generate_frame add
  obtain ⟨hk, hv⟩ := s.generate_lengths add
  refine ⟨?_, ?_, ?_, ?_, ?_⟩
  · rw [hb]; exact hs.build_wf
  · rw [hb, hvar]; exact hs.attached
  · rw [hb, hvar, hk]
  · rw [hb, hvar, hv]
  · rw [State.generate_win]; exact State.wf_storeBuf _ _ hs.mem_wf

/-- Settles O20: steps 1 to 5, and the completion. -/
theorem genProducesTheOutput : Obligations.GenProducesTheOutput := by
  intro s add hs hr
  obtain ⟨hb, hhost, hdraws, hlcmd, -⟩ := s.generate_frame add
  refine ⟨_, execGen_ready hr, State.completed_complete hb hhost hdraws hlcmd .ok,
    (State.generate_effect hs hr).complete (hb ▸ hs.build_wf) .ok, fun a hi ho => ?_⟩
  rw [State.complete_read_kept hb _ hi, s.generate_read_outside add ho]

/-- Settles O21: GEN's effect is not touched by showing K and V, which are shown as GEN left them. -/
theorem gensShowsTheStateAfter : Obligations.GensShowsTheStateAfter := by
  intro s add hs hr hdebug
  obtain ⟨hb, hhost, hdraws, hlcmd, -, hvar, -⟩ := s.generate_frame add
  have hbuild : (s.generate add).showKV.build = s.build := hb
  have hwf : (s.generate add).showKV.build.wf = true := hbuild ▸ hs.build_wf
  have hshows := State.showKV_shows (State.generate_sound hs add)
  rw [hb, hvar] at hshows
  refine ⟨_, execGens_ready hr hdebug, State.completed_complete hbuild hhost hdraws hlcmd .ok,
    (State.generate_effect hs hr).showKV.complete hwf .ok, hshows.complete hwf .ok, fun a hi ho hk hv => ?_⟩
  rw [State.complete_read_kept hbuild _ hi, State.showKV_read_outside _ (by rwa [hb, hvar]) (by rwa [hb, hvar]),
    s.generate_read_outside add ho]

/-! ### What the effect determines -/

/-- The generator state after GEN or GENS. -/
theorem GenerateEffect.gen {s t : State} {a : Opt} (h : GenerateEffect s t a) : t.gen = { s.gen with
    k := (Drbg.after (providerOf s.build s.gen.variant) (s.build.digestLen s.gen.variant) s.gen.k s.gen.v a
      s.win.arg.toNat).1
    v := (Drbg.after (providerOf s.build s.gen.variant) (s.build.digestLen s.gen.variant) s.gen.k s.gen.v a
      s.win.arg.toNat).2
    cnt := s.gen.cnt - 1 } := by
  obtain ⟨hinst, hvar, hmin⟩ := h.kept
  rw [← h.state, ← h.cnt]
  dsimp only
  rw [← hinst, ← hvar, ← hmin]

/-- Byte `j` of OUT after GEN comes from a pass that does not depend on how many bytes were asked for (R214). -/
theorem GenerateEffect.out_eq_chainValue {s t : State} {a : Opt} (h : GenerateEffect s t a) (hs : Sound s) {j : Nat}
    (hj : j < s.win.arg.toNat) :
    (Drbg.chainValue (providerOf s.build s.gen.variant)
      (Drbg.preUpdate (providerOf s.build s.gen.variant) s.gen.k s.gen.v a).1
      (Drbg.preUpdate (providerOf s.build s.gen.variant) s.gen.k s.gen.v a).2
      (j / s.build.digestLen s.gen.variant + 1))[j % s.build.digestLen s.gen.variant]? =
        some (t.win.mem.read (Buf.out.offset + j)) := by
  rw [← h.output j hj, output_getElem? _ _ _ (digestLen_bounds hs.build_wf hs.attached).1 hj]

/-- Settles O23: the output bytes of GEN's effect, each taken from its pass. -/
theorem outputBytesComeFromTheChain : Obligations.OutputBytesComeFromTheChain := by
  intro s add j hs hr hj
  obtain ⟨t, hexec, -, heffect, -⟩ := genProducesTheOutput s add hs hr
  exact ⟨t, hexec, heffect.out_eq_chainValue hs hj⟩

/-- K and V after generate depend on the length through the number of blocks alone (R219). -/
theorem after_congr (H : Bytes → Bytes → Bytes) {dl n n' : Nat} (h : ceilDiv n dl = ceilDiv n' dl) (k v : Bytes)
    (a : Opt) : Drbg.after H dl k v a n = Drbg.after H dl k v a n' := by
  simp only [Drbg.after, h]

theorem Sound.withArg {s : State} (h : Sound s) (n : Word) : Sound { s with win.arg := n } :=
  ⟨h.build_wf, h.attached, h.k_length, h.v_length, h.mem_wf⟩

/-- Settles O24: the generator state depends on the number of blocks, a byte of OUT on its pass. -/
theorem equalBlockCountsGiveEqualState : Obligations.EqualBlockCountsGiveEqualState := by
  intro s add n n' hs hr hr' hle hblocks
  obtain ⟨t, hexec, -, heffect, -⟩ := genProducesTheOutput _ add (hs.withArg n) hr
  obtain ⟨t', hexec', -, heffect', -⟩ := genProducesTheOutput _ add (hs.withArg n') hr'
  refine ⟨t, t', hexec, hexec', ?_, fun j hj => ?_⟩
  · rw [heffect.gen, heffect'.gen]
    dsimp only
    rw [after_congr _ hblocks]
    rfl
  · have hout := heffect.out_eq_chainValue (hs.withArg n) hj
    have hout' := heffect'.out_eq_chainValue (hs.withArg n') (hj.trans_le hle)
    exact Option.some_inj.mp (hout.symm.trans hout')

/-! ### The checks of GEN and GENS -/

/-- R210: no instance. -/
theorem State.checkGen_notInstantiated {s : State} {add : Bool} (h : s.gen.inst = false) :
    s.checkGen add = some .notInstantiated := by
  simp [State.checkGen, h]

/-- R211: a request of 0 or too many bytes, or a used LEN0 above MAX_IN_LEN. -/
theorem State.checkGen_invalidLength {s : State} {add : Bool} (hinst : s.gen.inst = true)
    (h : s.win.arg = 0 ∨ s.build.maxOutLen < s.win.arg.toNat ∨ (add = true ∧ s.build.maxInLen < s.win.len0.toNat)) :
    s.checkGen add = some .invalidLength := by
  rw [State.checkGen, if_neg (by simp [hinst]), if_pos (by simpa [State.fits, or_assoc] using h)]

/-- Settles O22: each clause is one exit of the checks GEN and GENS share. -/
theorem genErrorsInOrder : Obligations.GenErrorsInOrder := by
  intro s add i hi
  have raises {e : ErrKind} (hcheck : s.checkGen add = some e) : ∃ t, exec i s = .next t ∧ Raised s t e := by
    rcases hi with rfl | ⟨rfl, hdebug⟩
    · exact ⟨_, exec_generate_of_checkGen (.inl rfl) nofun hcheck, s.raised_complete e⟩
    · exact ⟨_, exec_generate_of_checkGen (.inr rfl) (fun _ => hdebug) hcheck, s.raised_complete e⟩
  exact ⟨fun h => raises (State.checkGen_notInstantiated h), fun hinst =>
    ⟨fun h => raises (State.checkGen_invalidLength hinst h),
      fun harg hmax hadd hcnt => raises (State.checkGen_exhausted hinst harg hmax hadd hcnt)⟩⟩

end Sys2Proof.Machine
end

section
/-! SUPPORT. RSD: the exits of its checks in the order of R310, and the generator state it leaves (44_reseed.md). -/

namespace Sys2Proof.Machine

/-! ### The checks of RSD, one lemma an exit -/

section
variable {s : State}

/-- R240: no instance. -/
theorem State.checkRsd_notInstantiated (h : s.gen.inst = false) : s.checkRsd = some .notInstantiated := by
  simp [State.checkRsd, h]

/-- R240: a length above MAX_IN_LEN. -/
theorem State.checkRsd_invalidLength (hinst : s.gen.inst = true)
    (h : s.build.maxInLen < s.win.len0.toNat ∨ s.build.maxInLen < s.win.len1.toNat) :
    s.checkRsd = some .invalidLength := by
  rw [State.checkRsd, if_neg (by simp [hinst]), if_pos (by simpa [State.fits] using h)]

/-- With an instance and the lengths in range, the entropy check decides (R241). -/
theorem State.checkRsd_of_fits (hinst : s.gen.inst = true) (h0 : s.win.len0.toNat ≤ s.build.maxInLen)
    (h1 : s.win.len1.toNat ≤ s.build.maxInLen) :
    s.checkRsd = if s.win.len0.toNat < s.gen.minEnt.toNat then some .insufficientEntropy else none := by
  rw [State.checkRsd, if_neg (by simp [hinst]), if_neg (by simp [State.fits, h0, h1])]

/-- The error of the checks is the command's (R240, R241). -/
theorem execRsd_raised {e : ErrKind} (h : s.checkRsd = some e) : ∃ t, exec .rsd s = .next t ∧ Raised s t e :=
  ⟨_, by simp [execRsd, h], s.raised_complete e⟩

/-- R243, R244: the full update on the seed, and the reload. -/
theorem execRsd_completes (h : s.checkRsd = none) :
    exec .rsd s = .next ((s.update .rsdSeed (some s.rsdSeed)).reloadCnt.complete .ok) := by
  simp [execRsd, h]

end

/-- Settles O26: each clause is one exit of the checks. -/
theorem rsdErrorsInOrder : Obligations.RsdErrorsInOrder := fun _ =>
  ⟨fun hinst => execRsd_raised (State.checkRsd_notInstantiated hinst), fun hinst =>
    ⟨fun hlong => execRsd_raised (State.checkRsd_invalidLength hinst hlong),
      fun h0 h1 hlow => execRsd_raised ((State.checkRsd_of_fits hinst h0 h1).trans (if_pos hlow))⟩⟩

/-! ### The generator state an RSD leaves -/

/-- Settles O25: with the checks passed, the effects are those of the update from the instance's K and V, and the reload. -/
theorem rsdMixesTheSeed : Obligations.RsdMixesTheSeed := by
  intro s hinst h0 h1 hfloor
  have hcheck : s.checkRsd = none := (State.checkRsd_of_fits hinst h0 h1).trans (if_neg hfloor.not_gt)
  have hkv := s.update_pure .rsdSeed (some s.rsdSeed)
  have htrace := s.update_trace .rsdSeed (some s.rsdSeed)
  exact ⟨_, execRsd_completes hcheck, State.completed_complete (by simp) (by simp) (by simp) (by simp) .ok,
    State.outputsKept_complete (by simp) (by simp) .ok, hkv, by simp, by simp, by simpa using hinst, by simp, by simp,
    htrace⟩

end Sys2Proof.Machine
end

section
/-! SUPPORT. What the step that issues a command does, the completion every command ends in, and the effects of NOP, RDST
and ZERO (45_control_debug.md). -/

namespace Sys2Proof.Machine

/-! ### The issue -/

/-- At micro grain the step is the issue alone (R150, R153). -/
theorem HostReady.step_issue {s : State} {w : Word} (h : HostReady s (.write Reg.cmd.offset .word w))
    (hg : s.host.grain = .micro) : step s = .next (s.hostAdvance.issue w) := by
  rw [h.step_startCommand, startCommand, show s.hostAdvance.host.grain = .micro from hg]

/-- Settles O5: the issued state holds the word in LCMD and has the build of `s`, so running LCMD there is running `i`. -/
theorem stepRunsTheDecodedCommand : Obligations.StepRunsTheDecodedCommand :=
  fun _ _ hr => ⟨fun hg _ hi => (hr.step_runCommand hg).trans (runCommand_ok hi), fun hg => hr.step_issue hg⟩

/-- Of the hidden state ISSUE writes LCMD, the phase and the kept outcome (R261). -/
theorem State.issue_seq (s : State) (w : Word) :
    (s.issue w).seq = { s.seq with phase := .check, lcmd := w, outcome := .ok } := rfl

/-- ISSUE clears every byte of OUT, DBG_K and DBG_V (R261). -/
theorem State.issue_read_output (s : State) (w : Word) {a : Nat} (ha : outputByte s.build a = true) :
    (s.issue w).win.mem.read a = 0 := by
  rw [State.issue_read, if_pos ha]

/-- ISSUE keeps every other byte (R261). -/
theorem State.issue_read_other (s : State) (w : Word) {a : Nat} (ha : outputByte s.build a = false) :
    (s.issue w).win.mem.read a = s.win.mem.read a := by
  rw [State.issue_read, ha, if_neg Bool.false_ne_true]

/-- Settles O8: the step is the issue at the state after the host has moved on, which is `s` but for the host. -/
theorem issueClearsOutputs : Obligations.IssueClearsOutputs := by
  intro s w hr hg
  refine ⟨_, hr.step_issue hg, rfl, s.hostAdvance.issue_seq w, rfl, rfl, rfl, rfl, rfl,
    fun _ => s.hostAdvance.issue_read_output w, fun _ => s.hostAdvance.issue_read_other w, ?_⟩
  simp

/-! ### The completion -/

/-- Settles O9: by `exec_cases` a command answers a completion, of a state with the frame of `s` or of `s` itself. -/
theorem everyCommandCompletes : Obligations.EveryCommandCompletes := by
  intro i s
  rcases exec_cases i s with ⟨x, hbuild, hhost, hdraws, hlcmd, hexec⟩ | ⟨e, -, hexec⟩
  · exact ⟨_, hexec, State.completed_complete hbuild hhost hdraws hlcmd .ok⟩
  · exact ⟨_, hexec, (s.raised_complete e).completed⟩

/-! ### NOP, RDST and ZERO -/

/-- Settles O13: NOP is the completion alone. -/
theorem nopOnlyCompletes : Obligations.NopOnlyCompletes :=
  fun s => ⟨_, exec_nop s, s.raised_complete .ok⟩

/-- RDST where DEBUG_ACCESS is true (R268). -/
theorem execRdst_with_debug {s : State} (h : s.build.debugAccess = true) :
    exec .rdst s = .next (s.showKV.showCnt.complete .ok) := by
  rw [exec_rdst, execRdst, if_pos h]

/-- `showCnt` leaves DBG_K and DBG_V alone. -/
theorem ShowsKV.showCnt {t : State} {g : Gen} {dl : Nat} (h : ShowsKV t g dl) : ShowsKV t.showCnt g dl :=
  ⟨h.dbgK, h.dbgV⟩

/-- Settles O14: K and V are shown, then CNT, and the completion clears operand bytes only. -/
theorem rdstShowsTheState : Obligations.RdstShowsTheState := by
  intro s hs hdebug
  have hshows := (State.showKV_shows hs).showCnt.complete hs.build_wf .ok
  obtain ⟨hlo, hhi⟩ := s.showKV.showCnt_toNat
  rw [State.showKV_gen] at hlo hhi
  refine ⟨_, execRdst_with_debug hdebug, State.completed_complete (by simp) (by simp) (by simp) (by simp) .ok, by simp,
    by simp, hshows, hlo, hhi, by simp, by simp, fun a hi hK hV => ?_⟩
  rw [State.complete_read_kept (by simp) .ok hi, State.showCnt_win_mem, s.showKV_read_outside hK hV]

/-- The reset generator state fills both physical registers with 0x00 (R31, R35). -/
theorem Gen.reset_registers : Gen.reset.kRegister = zeros 64 ∧ Gen.reset.vRegister = zeros 64 := ⟨rfl, rfl⟩

/-- Settles O15: ZERO completes the state whose generator state is the reset one. -/
theorem zeroWipesTheInstance : Obligations.ZeroWipesTheInstance := by
  intro s
  obtain ⟨hK, hV⟩ := Gen.reset_registers
  exact ⟨_, exec_zero s, State.completed_complete s.wipe_build s.wipe_host s.wipe_draws rfl .ok,
    State.outputsKept_complete s.wipe_build s.wipe_win .ok, rfl, rfl, rfl, rfl, rfl, rfl, hK, hV, rfl, rfl⟩

end Sys2Proof.Machine
end

section
/-! SUPPORT. Whatever word is written to CMD, the block comes back ready (60_exceptions.md rules R300, R317). -/

namespace Sys2Proof.Machine

/-- The word in LCMD ends with the completion effects, legal (R262) or not (R305). -/
theorem runCommand_completes (s : State) : ∃ t, runCommand s = .next t ∧ Completed s t t.win.err := by
  rcases runCommand_cases s with ⟨i, -, hlegal⟩ | ⟨_, -, hillegal⟩
  · obtain ⟨t, hexec, hdone⟩ := everyCommandCompletes i s
    exact ⟨t, hlegal.trans hexec, hdone⟩
  · exact ⟨_, hillegal, (State.raised_complete s .illegalCommand).completed⟩

/-- Settles O10: the step runs the issued word, and its completion clears BUSY, sets DONE and keeps the host where its own
move to the next statement has put it. -/
theorem everyWordLeavesTheBlockReady : Obligations.EveryWordLeavesTheBlockReady := by
  intro s w hr hg
  obtain ⟨t, hrun, hdone⟩ := runCommand_completes (s.hostAdvance.issue w)
  exact ⟨t, (hr.step_runCommand hg).trans hrun, t.not_busy_iff.mpr hdone.idle, hdone.done,
    congrArg HostAgent.pc hdone.host⟩

end Sys2Proof.Machine
end

section
/-! SUPPORT. Who makes the next move, and the two moves a host program does not name: reset (70_reset_and_hazards.md rules
R350, R351), and the step after the host's last statement (R371). -/

namespace Sys2Proof.Machine

/-- Where a turn is listed, its agent moves and the turn is taken off the list. -/
theorem step_listed {s : State} {turn : Turn} {ts : List Turn} (h : s.host.turns = turn :: ts) :
    step s = takeTurn turn { s with host.turns := ts } := by
  rw [step, nextMove, h]

/-- While no command runs and no turn is listed, the host moves. -/
theorem step_idle {s : State} (ht : s.host.turns = []) (hb : s.busy = false) : step s = hostStep s := by
  rw [step, nextMove, ht]
  simp only [State.defaultTurn, hb, Bool.false_eq_true, if_false, takeTurn]

/-- Past its last statement the host moves nothing (R371). -/
theorem hostStep_finished {s : State} (h : s.host.prog.length ≤ s.host.pc) : hostStep s = .next s := by
  rw [hostStep, List.getElem?_eq_none h]

/-- Settles O49: the step is the reset of the block, which writes the generator state, the window and the hidden state of
the reset state whatever they were, and nothing else. -/
theorem resetAbortsACommand : Obligations.ResetAbortsACommand := fun _ _ hturn =>
  ⟨_, step_listed hturn, rfl, rfl, rfl, rfl, rfl, rfl, rfl⟩

/-- Settles O51: the host has the move and no statement left. -/
theorem finishedRunsStay : Obligations.FinishedRunsStay := fun _ hturns hidle hend =>
  (step_idle hturns hidle).trans (hostStep_finished hend)

end Sys2Proof.Machine
end
